-- ==== Sys2Proof/Word.lean ====
section
/-!
DEFINITION. The word types of the core (00_scope.md R7, R8): every value of a rule is unsigned, and the only
widths are 8 bits (registers, memory bytes, timers), 16 bits (pc, I, stack entries, instruction words) and 12 bits
(the address field of an instruction).
-/

namespace Sys2Proof

/-- A byte: a general register, a memory cell, a timer, an immediate `kk`. -/
abbrev Byte := BitVec 8

/-- A 16-bit value: pc, I, a stack entry, an instruction word. -/
abbrev Word := BitVec 16

/-- The 12-bit address field `nnn` (30_encoding.md R56). -/
abbrev Addr := BitVec 12

/-- The number of a general register V0..VF, or of a key (10_state.md R16, R25). -/
abbrev RegIdx := Fin 16

end Sys2Proof
end

