-- ==== Sys2Proof/Machine/Flags.lean ====
section
/-!
DEFINITION. Results of the register arithmetic and the flags that go to VF (10_state.md R17, R27; 42_alu.md R86).
-/

namespace Sys2Proof.Machine

/-- `u8(v) = v mod 256` (00_scope.md R8). -/
def u8 (v : Nat) : Byte := BitVec.ofNat 8 v

/-- `u16(v) = v mod 65536` (00_scope.md R8). -/
def u16 (v : Nat) : Word := BitVec.ofNat 16 v

/-- The value VF takes for a condition: 1 or 0. -/
def flagByte (cond : Bool) : Byte := if cond then 1 else 0

/-- Carry: the exact sum exceeds 255 (42_alu.md R86, R93). -/
def carry (a b : Byte) : Bool := decide (a.toNat + b.toNat > 255)

/-- Not-borrow of `a - b`: `a >= b` (42_alu.md R86, R94, R96). -/
def notBorrow (a b : Byte) : Bool := decide (a.toNat ≥ b.toNat)

/-- `u8(a + b)` (42_alu.md R86). -/
def sum (a b : Byte) : Byte := u8 (a.toNat + b.toNat)

/-- `u8(a - b)`, which is `a - b + 256` when `a < b` (42_alu.md R86). -/
def difference (a b : Byte) : Byte := u8 (a.toNat + 256 - b.toNat)

/-- `src >> 1`, a zero shifted in (42_alu.md R95). -/
def shiftedRight (src : Byte) : Byte := u8 (src.toNat / 2)

/-- `u8(src << 1)`, a zero shifted in (42_alu.md R97). -/
def shiftedLeft (src : Byte) : Byte := u8 (src.toNat * 2)

/-- The bit SHR shifts out, `src & 1` (42_alu.md R95). -/
def shiftedOutRight (src : Byte) : Bool := src.getLsbD 0

/-- The bit SHL shifts out, `(src >> 7) & 1` (42_alu.md R97). -/
def shiftedOutLeft (src : Byte) : Bool := src.getLsbD 7

end Sys2Proof.Machine
end

