-- ==== Sys2Proof/Config.lean ====
section
/-!
DEFINITION. What is fixed for this hardware (00_scope.md R6), the configuration parameters a run takes (R6, 10_state.md
R28) and the one value the spec leaves free (the random byte, 40_execution_cycle.md R74).
-/

namespace Sys2Proof

/-- `DRAW_EDGE`, what happens to a sprite pixel beyond the display's edge (43_display.md R101). -/
inductive DrawEdge where
  /-- the pixel is dropped -/
  | clip
  /-- the pixel's column and row are reduced modulo 64 and 32 -/
  | wrap
deriving DecidableEq, Repr

/-- The configuration parameters of 00_scope.md R6, arguments fixed for a run (10_state.md R28). A state carries them
(log 3) and nothing changes them, so a statement about every state is a statement about every setting. -/
structure Params where
  /-- `FONT`, the 80 bytes at 0x050..0x09F after Reset (20_memory.md R40). -/
  font : Vector Byte 80
  /-- `SHIFT_USES_VY`, the source of SHR and SHL (42_alu.md R95, R97). -/
  shiftUsesVy : Bool
  /-- `DRAW_EDGE` (43_display.md R101). -/
  drawEdge : DrawEdge
  /-- `CPU_HZ`, the host's instruction rate, "read by no rule of the core" (R6, 70_reset_and_hazards.md R149). -/
  cpuHz : Nat
deriving DecidableEq, Repr

namespace Config

/-- `MEM_SIZE` (00_scope.md R6). -/
def memSize : Nat := 4096
/-- `FONT_BASE` (00_scope.md R6). -/
def fontBase : Nat := 0x050
/-- `PROG_BASE` (00_scope.md R6). -/
def progBase : Nat := 0x200
/-- `PC_RESET` (00_scope.md R6, 10_state.md R34). -/
def pcReset : Word := 0x200
/-- `ROM_MAX` (00_scope.md R6, 90_conflicts.md C1). -/
def romMax : Nat := 3584
/-- The highest pc a fetch can use (20_memory.md R43, 40_execution_cycle.md R69). -/
def lastFetchPc : Nat := 0xFFE
/-- Nanoseconds in a second, the unit of `Tick`'s input (60_exceptions.md R127). -/
def nsPerSecond : Nat := 1000000000
/-- `TIMER_HZ` (00_scope.md R6). -/
def timerHz : Nat := 60

/-- The random bytes of Steps to which the schedule gives none: FREE, nothing is known of them (40_execution_cycle.md
R74: "a free input of `Step`, any value 0..255, under no law"). Log 1. -/
opaque freeRandomByte : Nat → Byte

end Config

end Sys2Proof
end

