-- ==== Sys2Proof/Machine/Font.lean ====
section
/-!
DEFINITION. The default of the configuration parameters (00_scope.md R6), with the 80 bytes of the default `FONT` of
20_memory.md R40, one glyph a line. Log 3.
-/

namespace Sys2Proof.Machine

/-- Glyphs 0 to 7 of R40. -/
def fontGlyphs0to7 : Vector Byte 40 :=
  #v[0xF0, 0x90, 0x90, 0x90, 0xF0,
     0x20, 0x60, 0x20, 0x20, 0x70,
     0xF0, 0x10, 0xF0, 0x80, 0xF0,
     0xF0, 0x10, 0xF0, 0x10, 0xF0,
     0x90, 0x90, 0xF0, 0x10, 0x10,
     0xF0, 0x80, 0xF0, 0x10, 0xF0,
     0xF0, 0x80, 0xF0, 0x90, 0xF0,
     0xF0, 0x10, 0x20, 0x40, 0x40]

/-- Glyphs 8 to F of R40. -/
def fontGlyphs8toF : Vector Byte 40 :=
  #v[0xF0, 0x90, 0xF0, 0x90, 0xF0,
     0xF0, 0x90, 0xF0, 0x10, 0xF0,
     0xF0, 0x90, 0xF0, 0x90, 0x90,
     0xE0, 0x90, 0xE0, 0x90, 0xE0,
     0xF0, 0x80, 0x80, 0x80, 0xF0,
     0xE0, 0x90, 0x90, 0x90, 0xE0,
     0xF0, 0x80, 0xF0, 0x80, 0xF0,
     0xF0, 0x80, 0xF0, 0x80, 0x80]

/-- The default `FONT` (20_memory.md R40). -/
def defaultFont : Vector Byte 80 := fontGlyphs0to7 ++ fontGlyphs8toF

/-- The parameters at the defaults of 00_scope.md R6. -/
def defaultParams : Params where
  font := defaultFont
  shiftUsesVy := false
  drawEdge := .clip
  cpuHz := 700

end Sys2Proof.Machine
end

