-- ==== Sys2Proof/Machine/Memory.lean ====
section
/-!
DEFINITION. Memory (20_memory.md): 4096 bytes, held as the list of the cells that differ from the reset contents, sorted
by address (log 5). An address that is not listed reads as the reset contents: `FONT` at 0x050..0x09F, 0 elsewhere
(10_state.md R33, 20_memory.md R39).
-/

namespace Sys2Proof.Machine

/-- The cells that differ from the reset contents, addresses strictly rising. -/
abbrev Memory := List Host.Cell

/-- `EA(a) = a mod 4096`, the effective data address (00_scope.md R10, 20_memory.md R42). -/
def ea (a : Nat) : Nat := a % Config.memSize

/-- The reset contents of address `a`: the font at 0x050..0x09F and 0 elsewhere (10_state.md R33). -/
def resetByte (font : Vector Byte 80) (a : Nat) : Byte :=
  if Config.fontBase ≤ a then (font.toList.getD (a - Config.fontBase) 0) else 0

/-- The byte at address `a`. -/
def Memory.read (font : Vector Byte 80) (m : Memory) (a : Nat) : Byte :=
  match m with
  | [] => resetByte font a
  | c :: cs => if c.1 = a then c.2 else Memory.read font cs a

/-- The cell list of one byte `b` at `a` in front of `m`: empty where `b` is what an unlisted `a` reads as. -/
def Memory.cons (font : Vector Byte 80) (a : Nat) (b : Byte) (m : Memory) : Memory :=
  if b = resetByte font a then m else (a, b) :: m

/-- Set the byte at address `a` to `b`, keeping the canonical form. -/
def Memory.write (font : Vector Byte 80) (m : Memory) (a : Nat) (b : Byte) : Memory :=
  match m with
  | [] => Memory.cons font a b []
  | c :: cs =>
    if a < c.1 then Memory.cons font a b (c :: cs)
    else if c.1 = a then Memory.cons font a b cs
    else c :: Memory.write font cs a b

/-- Copy bytes to rising addresses from `a` on (70_reset_and_hazards.md R139). The addresses are distinct, so the order of
the writes shows nowhere (20_memory.md R46). -/
def Memory.copy (font : Vector Byte 80) (m : Memory) (a : Nat) (bytes : List Byte) : Memory :=
  match bytes with
  | [] => m
  | b :: bs => Memory.write font (Memory.copy font m (a + 1) bs) a b

/-- The canonical form: addresses strictly rising, each in the address space (20_memory.md R37), no entry equal to what
an unlisted address reads as. -/
abbrev Memory.wf (font : Vector Byte 80) (m : Memory) : Prop :=
  m.Pairwise (fun c d => c.1 < d.1) ∧ ∀ c ∈ m, c.1 < Config.memSize ∧ c.2 ≠ resetByte font c.1

end Sys2Proof.Machine
end

