-- ==== Sys2Proof/Machine/State.lean ====
section
/-!
DEFINITION. The state of the core as plain data (10_state.md R15), with the ports and parameters that `exec` and `step`
have no argument for (R28, R30) and the model's own schedule and draw counter (log 1, log 2); the reasons a step can stop;
and the state right after reset (R33).
-/

namespace Sys2Proof.Machine

/-- The fault kinds (60_exceptions.md R115); their numbers are `FaultCode.number`. -/
inductive FaultCode where
  /-- `Step`, a word that selects no instruction (R116) -/
  | unsupportedOpcode
  /-- `CALL` with 16 entries on the stack (R117) -/
  | stackOverflow
  /-- `Step`, a fetch with `pc > 0xFFE` (R118) -/
  | pcOutOfRange
  /-- `LoadRom` of more than 3584 bytes (R119) -/
  | romTooLarge
deriving DecidableEq, Repr

/-- The run and fault status, the core's fault report (10_state.md R31). -/
inductive Status where
  | running
  | halted (code : FaultCode) (opcode : Word) (faultPc : Word)
deriving DecidableEq, Repr

/-- The operations of a run after `Reset` and `LoadRom`, each atomic (00_scope.md R5, 70_reset_and_hazards.md R145). -/
inductive RunOp where
  /-- `SetKeypad(k)` (70_reset_and_hazards.md R142) -/
  | setKeypad (keys : Vector Bool 16)
  /-- `Step(rnd)` (40_execution_cycle.md R67) -/
  | step (rnd : Byte)
  /-- `Tick(elapsed_ns)` (60_exceptions.md R127) -/
  | tick (elapsedNs : Nat)
  /-- `AckRedraw` (70_reset_and_hazards.md R143) -/
  | ackRedraw
deriving DecidableEq, Repr

/-- Why the machine stops. SAFE: the spec gives the operation no transition there. -/
inductive Fault where
  /-- Raised by `Step` and `Tick` on a core whose status is `Halted`: "has no transition" (40_execution_cycle.md R67,
  60_exceptions.md R131). It carries the report that ended the run. Safe (log 4). -/
  | halted (code : FaultCode) (opcode : Word) (faultPc : Word)
deriving DecidableEq, Repr

/-- Why the model does not admit an operation. -/
inductive Refusal where
  /-- Raised by `exec` for an instruction without a meaning; no arm does. Safe. -/
  | notModelled (mnemonic : String)
  /-- Raised by `runOps`: an operation other than `Reset` before the first `Reset` (10_state.md R35). Safe (log 7). -/
  | coreNotReset
  /-- Raised by `runOps`: an operation other than `LoadRom` directly after `Reset` (70_reset_and_hazards.md R141). Safe
  (log 7). -/
  | romNotLoaded
  /-- Raised by `runOps`: `LoadRom` anywhere else than directly after `Reset` (70_reset_and_hazards.md R139). Safe (log 7). -/
  | loadRomNotAfterReset
deriving DecidableEq, Repr

/-- The state of the core. -/
structure State where
  /-- `V[0..15]` (10_state.md R16) -/
  v : Vector Byte 16
  /-- `I` (R18) -/
  i : Word
  /-- `pc` (R19) -/
  pc : Word
  /-- `stack[0..15]` (R20) -/
  stack : Vector Word 16
  /-- `SP`, the depth 0..16 (R20) -/
  sp : Fin 17
  /-- `DT` (R21) -/
  dt : Byte
  /-- `ST` (R22) -/
  st : Byte
  /-- `mem` (R23): the cells that differ from the reset contents -/
  mem : Memory
  /-- `display[0..2047]` (R24), row-major, cell `(c, r)` at `c + r*64` -/
  display : Vector Bool 2048
  /-- `key[0..15]` (R25) -/
  key : Vector Bool 16
  /-- `redraw` (R26) -/
  redraw : Bool
  /-- `status` (R31) -/
  status : Status
  /-- the beep output: what the latest `Tick` reported (R30, 60_exceptions.md R129; log 6) -/
  beep : Bool
  /-- the `rnd` input of the present `Step` (R30, 40_execution_cycle.md R74; log 1) -/
  rnd : Byte
  /-- the model's own: how many free random bytes have been taken (log 1) -/
  draws : Nat
  /-- the model's own: the run operations still to happen, the next one first (log 2) -/
  pending : List RunOp
  /-- the configuration parameters, fixed for a run (R28; log 3) -/
  params : Params
deriving DecidableEq, Repr

/-- What an operation answers. -/
abbrev Result := Host.Outcome State Fault Refusal

/-- The state after `Reset` under the parameters `p` (10_state.md R33); the last four fields before `params` are log 1,
2 and 6. -/
def State.resetWith (p : Params) : State where
  v := Vector.replicate 16 0
  i := 0
  pc := Config.pcReset
  stack := Vector.replicate 16 0
  sp := 0
  dt := 0
  st := 0
  mem := []
  display := Vector.replicate 2048 false
  key := Vector.replicate 16 false
  redraw := false
  status := .running
  beep := false
  rnd := 0
  draws := 0
  pending := []
  params := p

/-- The state right after reset, with the default parameters (10_state.md R33, 00_scope.md R6). -/
def State.reset : State := State.resetWith defaultParams

end Sys2Proof.Machine
end

