-- ==== Sys2Proof/Machine/Ops.lean ====
section
/-!
DEFINITION. The named operations over registers, memory, stack, display, keys and status that every meaning is written
with (00_scope.md R9 to R12), and taking a fault, once (60_exceptions.md R122).
-/

namespace Sys2Proof.Machine

/-- Read `V[x]` (00_scope.md R9). -/
def State.getV (s : State) (x : RegIdx) : Byte := s.v[x.val]

/-- `V[x] <- b` (00_scope.md R9). -/
def State.setV (s : State) (x : RegIdx) (b : Byte) : State := { s with v := s.v.set x.val b }

/-- `VF`, `V[0xF]` (10_state.md R17). -/
def vf : RegIdx := 15

/-- `V[x] <- result`, then `VF <- flag`: the order of 40_execution_cycle.md R76. -/
def State.setVFlag (s : State) (x : RegIdx) (result flag : Byte) : State := (s.setV x result).setV vf flag

/-- `I <- w`. -/
def State.setI (s : State) (w : Word) : State := { s with i := w }

/-- `pc <- w`. -/
def State.setPc (s : State) (w : Word) : State := { s with pc := w }

/-- `pc <- u16(pc + 2)`: the advance of 40_execution_cycle.md R70, and a skip. -/
def State.advance (s : State) : State := s.setPc (s.pc + 2)

/-- A skip where the condition holds (00_scope.md R14). -/
def State.skipIf (s : State) (cond : Bool) : State := if cond then s.advance else s

/-- `pc <- u16(pc - 2)`: the key-wait rewind (44_keypad_timers.md R105). -/
def State.rewind (s : State) : State := s.setPc (s.pc - 2)

/-- `DT <- b`. -/
def State.setDt (s : State) (b : Byte) : State := { s with dt := b }

/-- `ST <- b`. -/
def State.setSt (s : State) (b : Byte) : State := { s with st := b }

/-- `mem[a]`, not reduced by `EA`: what the fetch reads (20_memory.md R43). -/
def State.peek (s : State) (a : Nat) : Byte := Memory.read s.params.font s.mem a

/-- `mem[a] <- b`, not reduced by `EA`. -/
def State.poke (s : State) (a : Nat) (b : Byte) : State := { s with mem := Memory.write s.params.font s.mem a b }

/-- `MemRead(a, 1)` (00_scope.md R10, 20_memory.md R42). -/
def State.memRead (s : State) (a : Nat) : Byte := s.peek (ea a)

/-- `MemWrite(a, 1, b)` (00_scope.md R10, 20_memory.md R42). -/
def State.memWrite (s : State) (a : Nat) (b : Byte) : State := s.poke (ea a) b

/-- The `n` bytes `MemRead(a)`, `MemRead(a + 1)`, ... (20_memory.md R46). -/
def State.readBytes (s : State) (a n : Nat) : List Byte := (List.range n).map (fun j => s.memRead (a + j))

/-- `MemWrite(a)`, `MemWrite(a + 1)`, ... in ascending order (20_memory.md R46). -/
def State.storeBytes (s : State) (a : Nat) (bytes : List Byte) : State :=
  match bytes with
  | [] => s
  | b :: bs => (s.memWrite a b).storeBytes (a + 1) bs

/-- Push a return address; `none` where the stack holds 16 entries (10_state.md R20, 41_control_flow.md R80). -/
def State.push? (s : State) (ret : Word) : Option State :=
  if h : s.sp.val < 16 then
    some { s with stack := s.stack.set s.sp.val ret, sp := ⟨s.sp.val + 1, Nat.succ_lt_succ h⟩ }
  else none

/-- Pop a return address; `none` where the stack is empty (41_control_flow.md R78). -/
def State.pop? (s : State) : Option (Word × State) :=
  if h : 0 < s.sp.val then
    some (s.stack[s.sp.val - 1], { s with sp := ⟨s.sp.val - 1, by omega⟩ })
  else none

/-- `key[k]` (00_scope.md R9). -/
def State.keyDown (s : State) (k : RegIdx) : Bool := s.key[k.val]

/-- The least `k` with `key[k]` (44_keypad_timers.md R105). -/
def State.leastKey (s : State) : Option RegIdx := (List.finRange 16).find? (fun k => s.keyDown k)

/-- The display index of column `c`, row `r`: `c + r*64` (00_scope.md R11, 10_state.md R24). -/
def cellIndex (c : Fin 64) (r : Fin 32) : Fin 2048 := ⟨c.val + r.val * 64, by omega⟩

/-- `Pix(c, r)` (00_scope.md R11). -/
def State.pix (s : State) (c : Fin 64) (r : Fin 32) : Bool := s.display[(cellIndex c r).val]

/-- Replace the display and set `redraw`, as every `CLS` and `DRW` does (10_state.md R26, 90_conflicts.md C8). -/
def State.showDisplay (s : State) (d : Vector Bool 2048) : State := { s with display := d, redraw := true }

/-- The output `sound_on = (ST != 0)` (10_state.md R36). -/
def State.soundOn (s : State) : Bool := s.st != 0

/-- The numeric fault codes (60_exceptions.md R115). -/
def FaultCode.number (c : FaultCode) : BitVec 4 :=
  match c with
  | .unsupportedOpcode => 1
  | .stackOverflow => 2
  | .pcOutOfRange => 3
  | .romTooLarge => 4

/-- The numeric code of a status: 0 where it is `Running` (60_exceptions.md R115). -/
def Status.number (t : Status) : BitVec 4 :=
  match t with
  | .running => 0
  | .halted code _ _ => code.number

/-- TAKING A FAULT: `status <- Halted(code, opcode, fault_pc)` "and stops", "No other state is saved or changed"
(60_exceptions.md R122; `raise Fault` of 00_scope.md R12). There is no handler and no return (R124): only `Reset` leaves
`Halted`. -/
def State.raiseFault (s : State) (code : FaultCode) (opcode faultPc : Word) : State :=
  { s with status := .halted code opcode faultPc }

/-- `Reset`, the one way out of `Halted` (70_reset_and_hazards.md R137, 60_exceptions.md R124). The parameters are fixed for
a run (10_state.md R28); the model's schedule and draw counter are not the core's and stay (log 2). -/
def State.resetCore (s : State) : State :=
  { State.resetWith s.params with draws := s.draws, pending := s.pending }

end Sys2Proof.Machine
end

