-- ==== Sys2Proof/Machine/Operands.lean ====
section
/-!
DEFINITION. The operand forms of the instructions: the zero-extended address (30_encoding.md R57), the shift source, the key
a register selects, the glyph address, the decimal digits, the registers V0..Vx, the sprite's origin and rows.
-/

namespace Sys2Proof.Machine

/-- `zext_16(nnn)` (30_encoding.md R57). -/
def zextAddr (nnn : Addr) : Word := nnn.setWidth 16

/-- The target of `JP V0, nnn`: `zext_16(nnn) + V[0]` (41_control_flow.md R85). -/
def State.v0Target (s : State) (nnn : Addr) : Word := u16 (nnn.toNat + (s.getV 0).toNat)

/-- The source of SHR and SHL: `SHIFT_USES_VY ? V[y] : V[x]` (42_alu.md R95, R97). -/
def State.shiftSource (s : State) (x y : RegIdx) : Byte := if s.params.shiftUsesVy then s.getV y else s.getV x

/-- The key `V[x] & 0xF` (44_keypad_timers.md R103). -/
def keyOf (b : Byte) : RegIdx := ⟨b.toNat % 16, Nat.mod_lt _ (by decide)⟩

/-- The glyph address `0x050 + 5 * V[x]`, of the full value (45_index_memory.md R111, 90_conflicts.md C2). -/
def glyphAddress (b : Byte) : Word := u16 (Config.fontBase + 5 * b.toNat)

/-- The three decimal digits, hundreds first (45_index_memory.md R112). -/
def bcdDigits (b : Byte) : List Byte := [u8 (b.toNat / 100), u8 (b.toNat / 10 % 10), u8 (b.toNat % 10)]

/-- `V[0], ..., V[x]` (45_index_memory.md R113). -/
def State.regsUpTo (s : State) (x : RegIdx) : List Byte := s.v.toList.take (x.val + 1)

/-- The registers after `V[j] <- MemRead(a + j)` for `j` in `0..x` (45_index_memory.md R114). -/
def State.loadedRegs (s : State) (a : Nat) (x : RegIdx) : Vector Byte 16 :=
  Vector.ofFn (fun j : Fin 16 => if j.val ≤ x.val then s.memRead (a + j.val) else s.getV j)

/-- The sprite's first column, `V[x] mod 64` (43_display.md R100). -/
def State.spriteCol (s : State) (x : RegIdx) : Nat := (s.getV x).toNat % 64

/-- The sprite's first row, `V[y] mod 32` (43_display.md R100, 90_conflicts.md C9). -/
def State.spriteRow (s : State) (y : RegIdx) : Nat := (s.getV y).toNat % 32

/-- The sprite's row bytes `MemRead(I)`, ..., `MemRead(I + n - 1)` (43_display.md R100). -/
def State.spriteRows (s : State) (n : BitVec 4) : List Byte := s.readBytes s.i.toNat n.toNat

end Sys2Proof.Machine
end

