-- ==== Sys2Proof/Machine/Alu.lean ====
section
/-!
DEFINITION. The register and ALU instructions (42_alu.md). Operands are read before any write, and VF is written last
(40_execution_cycle.md R76).
-/

namespace Sys2Proof.Machine

/-- LD Vx, kk (42_alu.md R87). -/
def execLdImm (x : RegIdx) (kk : Byte) (s : State) : Result := .next (s.setV x kk)

/-- ADD Vx, kk: no flag (42_alu.md R88). -/
def execAddImm (x : RegIdx) (kk : Byte) (s : State) : Result := .next (s.setV x (sum (s.getV x) kk))

/-- LD Vx, Vy (42_alu.md R89). -/
def execLdReg (x y : RegIdx) (s : State) : Result := .next (s.setV x (s.getV y))

/-- OR Vx, Vy: no flag (42_alu.md R90). -/
def execOrReg (x y : RegIdx) (s : State) : Result := .next (s.setV x (s.getV x ||| s.getV y))

/-- AND Vx, Vy: no flag (42_alu.md R91). -/
def execAndReg (x y : RegIdx) (s : State) : Result := .next (s.setV x (s.getV x &&& s.getV y))

/-- XOR Vx, Vy: no flag (42_alu.md R92). -/
def execXorReg (x y : RegIdx) (s : State) : Result := .next (s.setV x (s.getV x ^^^ s.getV y))

/-- ADD Vx, Vy: VF = carry (42_alu.md R93). -/
def execAddReg (x y : RegIdx) (s : State) : Result :=
  .next (s.setVFlag x (sum (s.getV x) (s.getV y)) (flagByte (carry (s.getV x) (s.getV y))))

/-- SUB Vx, Vy: VF = not-borrow of `V[x] - V[y]` (42_alu.md R94). -/
def execSubReg (x y : RegIdx) (s : State) : Result :=
  .next (s.setVFlag x (difference (s.getV x) (s.getV y)) (flagByte (notBorrow (s.getV x) (s.getV y))))

/-- SHR Vx {, Vy}: VF = the bit shifted out (42_alu.md R95). -/
def execShr (x y : RegIdx) (s : State) : Result :=
  .next (s.setVFlag x (shiftedRight (s.shiftSource x y)) (flagByte (shiftedOutRight (s.shiftSource x y))))

/-- SUBN Vx, Vy: VF = not-borrow of `V[y] - V[x]` (42_alu.md R96). -/
def execSubnReg (x y : RegIdx) (s : State) : Result :=
  .next (s.setVFlag x (difference (s.getV y) (s.getV x)) (flagByte (notBorrow (s.getV y) (s.getV x))))

/-- SHL Vx {, Vy}: VF = the bit shifted out (42_alu.md R97). -/
def execShl (x y : RegIdx) (s : State) : Result :=
  .next (s.setVFlag x (shiftedLeft (s.shiftSource x y)) (flagByte (shiftedOutLeft (s.shiftSource x y))))

/-- RND Vx, kk: `V[x] <- rnd & kk` (42_alu.md R98), `rnd` the Step's free input (40_execution_cycle.md R74; log 1). -/
def execRnd (x : RegIdx) (kk : Byte) (s : State) : Result := .next (s.setV x (s.rnd &&& kk))

end Sys2Proof.Machine
end

