-- ==== Sys2Proof/Syntax.lean ====
section
/-!
DEFINITION. The instructions of the core: one constructor per row of spec/opcode_table.json (30_encoding.md R59). The
operands are the decoder's fields (R56): `x`, `y` register numbers, `n` a row count, `kk` an immediate, `nnn` an address.
-/

namespace Sys2Proof

/-- The 35 instructions (30_encoding.md R59). -/
inductive Instr where
  /-- 00E0 CLS (43_display.md R99) -/
  | cls
  /-- 00EE RET (41_control_flow.md R78) -/
  | ret
  /-- 0nnn SYS nnn (41_control_flow.md R77) -/
  | sys (nnn : Addr)
  /-- 1nnn JP nnn (41_control_flow.md R79) -/
  | jp (nnn : Addr)
  /-- 2nnn CALL nnn (41_control_flow.md R80) -/
  | call (nnn : Addr)
  /-- 3xkk SE Vx, kk (41_control_flow.md R81) -/
  | seImm (x : RegIdx) (kk : Byte)
  /-- 4xkk SNE Vx, kk (41_control_flow.md R82) -/
  | sneImm (x : RegIdx) (kk : Byte)
  /-- 5xy0 SE Vx, Vy (41_control_flow.md R83) -/
  | seReg (x y : RegIdx)
  /-- 6xkk LD Vx, kk (42_alu.md R87) -/
  | ldImm (x : RegIdx) (kk : Byte)
  /-- 7xkk ADD Vx, kk (42_alu.md R88) -/
  | addImm (x : RegIdx) (kk : Byte)
  /-- 8xy0 LD Vx, Vy (42_alu.md R89) -/
  | ldReg (x y : RegIdx)
  /-- 8xy1 OR Vx, Vy (42_alu.md R90) -/
  | orReg (x y : RegIdx)
  /-- 8xy2 AND Vx, Vy (42_alu.md R91) -/
  | andReg (x y : RegIdx)
  /-- 8xy3 XOR Vx, Vy (42_alu.md R92) -/
  | xorReg (x y : RegIdx)
  /-- 8xy4 ADD Vx, Vy (42_alu.md R93) -/
  | addReg (x y : RegIdx)
  /-- 8xy5 SUB Vx, Vy (42_alu.md R94) -/
  | subReg (x y : RegIdx)
  /-- 8xy6 SHR Vx, Vy (42_alu.md R95) -/
  | shr (x y : RegIdx)
  /-- 8xy7 SUBN Vx, Vy (42_alu.md R96) -/
  | subnReg (x y : RegIdx)
  /-- 8xyE SHL Vx, Vy (42_alu.md R97) -/
  | shl (x y : RegIdx)
  /-- 9xy0 SNE Vx, Vy (41_control_flow.md R84) -/
  | sneReg (x y : RegIdx)
  /-- Annn LD I, nnn (45_index_memory.md R109) -/
  | ldI (nnn : Addr)
  /-- Bnnn JP V0, nnn (41_control_flow.md R85) -/
  | jpV0 (nnn : Addr)
  /-- Cxkk RND Vx, kk (42_alu.md R98) -/
  | rnd (x : RegIdx) (kk : Byte)
  /-- Dxyn DRW Vx, Vy, n (43_display.md R100) -/
  | drw (x y : RegIdx) (n : BitVec 4)
  /-- Ex9E SKP Vx (44_keypad_timers.md R103) -/
  | skp (x : RegIdx)
  /-- ExA1 SKNP Vx (44_keypad_timers.md R104) -/
  | sknp (x : RegIdx)
  /-- Fx07 LD Vx, DT (44_keypad_timers.md R106) -/
  | ldVxDt (x : RegIdx)
  /-- Fx0A LD Vx, K (44_keypad_timers.md R105) -/
  | ldVxK (x : RegIdx)
  /-- Fx15 LD DT, Vx (44_keypad_timers.md R107) -/
  | ldDtVx (x : RegIdx)
  /-- Fx18 LD ST, Vx (44_keypad_timers.md R108) -/
  | ldStVx (x : RegIdx)
  /-- Fx1E ADD I, Vx (45_index_memory.md R110) -/
  | addI (x : RegIdx)
  /-- Fx29 LD F, Vx (45_index_memory.md R111) -/
  | ldF (x : RegIdx)
  /-- Fx33 LD B, Vx (45_index_memory.md R112) -/
  | ldB (x : RegIdx)
  /-- Fx55 LD [I], Vx (45_index_memory.md R113) -/
  | stRegs (x : RegIdx)
  /-- Fx65 LD Vx, [I] (45_index_memory.md R114) -/
  | ldRegs (x : RegIdx)
deriving DecidableEq, Repr

end Sys2Proof
end

