-- ==== Sys2Proof/WellFormed.lean ====
section
/-!
DEFINITION. Which terms of `Instr` are instructions. Every operand field fits its encoding by its type (30_encoding.md
R56, R57), so the one check left is R60's: the words 0x00E0 and 0x00EE are CLS and RET, never SYS.
-/

namespace Sys2Proof

/-- `i` is an instruction the encoding has a word for that decodes back to it (30_encoding.md R60). -/
def WellFormed (i : Instr) : Bool :=
  match i with
  | .sys nnn => nnn != 0x0E0#12 && nnn != 0x0EE#12
  | _ => true

end Sys2Proof
end

