-- ==== Sys2Proof/Decode.lean ====
section
/-!
DEFINITION. The instruction decoder and, after it, the encoder (30_encoding.md). The decoder extracts the fixed fields of
R56 and dispatches "on `group` then sub-fields" (40_execution_cycle.md R72); a word that selects no row is unsupported
(R61). The opcode table of R59 stands here a second time, as masks and matches, so that the two can be proved equal.
-/

namespace Sys2Proof

/-- A register number from its nibble (30_encoding.md R57). -/
def regOfNibble (b : BitVec 4) : RegIdx := ⟨b.toNat, b.isLt⟩

/-- The nibble of a register number. -/
def nibbleOfReg (x : RegIdx) : BitVec 4 := BitVec.ofNat 4 x.val

/-- The decoder's six fields (30_encoding.md R56). -/
structure Fields where
  group : BitVec 4
  x : RegIdx
  y : RegIdx
  n : BitVec 4
  kk : Byte
  nnn : Addr
deriving DecidableEq, Repr

/-- "pure, stateless": every word has all six fields (30_encoding.md R56, R66). -/
def fields (w : Word) : Fields where
  group := w.extractLsb' 12 4
  x := regOfNibble (w.extractLsb' 8 4)
  y := regOfNibble (w.extractLsb' 4 4)
  n := w.extractLsb' 0 4
  kk := w.extractLsb' 0 8
  nnn := w.extractLsb' 0 12

/-- Group 0: 00E0 and 00EE have priority over SYS (30_encoding.md R60). -/
def decodeGroup0 (f : Fields) : Instr :=
  if f.nnn = 0x0E0#12 then .cls else if f.nnn = 0x0EE#12 then .ret else .sys f.nnn

/-- Group 8: `n` is the function code (30_encoding.md R57, R59). -/
def decodeGroup8 (f : Fields) : Option Instr :=
  match f.n.toNat with
  | 0x0 => some (.ldReg f.x f.y)
  | 0x1 => some (.orReg f.x f.y)
  | 0x2 => some (.andReg f.x f.y)
  | 0x3 => some (.xorReg f.x f.y)
  | 0x4 => some (.addReg f.x f.y)
  | 0x5 => some (.subReg f.x f.y)
  | 0x6 => some (.shr f.x f.y)
  | 0x7 => some (.subnReg f.x f.y)
  | 0xE => some (.shl f.x f.y)
  | _ => none

/-- Group E: `kk` is the function code (30_encoding.md R57, R59). -/
def decodeGroupE (f : Fields) : Option Instr :=
  match f.kk.toNat with
  | 0x9E => some (.skp f.x)
  | 0xA1 => some (.sknp f.x)
  | _ => none

/-- Group F: `kk` is the function code (30_encoding.md R57, R59). -/
def decodeGroupF (f : Fields) : Option Instr :=
  match f.kk.toNat with
  | 0x07 => some (.ldVxDt f.x)
  | 0x0A => some (.ldVxK f.x)
  | 0x15 => some (.ldDtVx f.x)
  | 0x18 => some (.ldStVx f.x)
  | 0x1E => some (.addI f.x)
  | 0x29 => some (.ldF f.x)
  | 0x33 => some (.ldB f.x)
  | 0x55 => some (.stRegs f.x)
  | 0x65 => some (.ldRegs f.x)
  | _ => none

/-- Dispatch on the fields (30_encoding.md R59, R60; 40_execution_cycle.md R72). -/
def decodeFields (f : Fields) : Option Instr :=
  match f.group.toNat with
  | 0x0 => some (decodeGroup0 f)
  | 0x1 => some (.jp f.nnn)
  | 0x2 => some (.call f.nnn)
  | 0x3 => some (.seImm f.x f.kk)
  | 0x4 => some (.sneImm f.x f.kk)
  | 0x5 => if f.n = 0#4 then some (.seReg f.x f.y) else none
  | 0x6 => some (.ldImm f.x f.kk)
  | 0x7 => some (.addImm f.x f.kk)
  | 0x8 => decodeGroup8 f
  | 0x9 => if f.n = 0#4 then some (.sneReg f.x f.y) else none
  | 0xA => some (.ldI f.nnn)
  | 0xB => some (.jpV0 f.nnn)
  | 0xC => some (.rnd f.x f.kk)
  | 0xD => some (.drw f.x f.y f.n)
  | 0xE => decodeGroupE f
  | 0xF => decodeGroupF f
  | _ => none

/-- The instruction a word selects; `none` where the word is unsupported (30_encoding.md R61). -/
def decode (w : Word) : Option Instr := decodeFields (fields w)

/-- The big-endian word of two bytes, the first at the lower address (20_memory.md R43, R44). -/
def wordOfBytes (hi lo : Byte) : Word := hi ++ lo

/-- The byte at the lower address, bits 15..8. -/
def hiByte (w : Word) : Byte := w.extractLsb' 8 8

/-- The byte at the higher address, bits 7..0. -/
def loByte (w : Word) : Byte := w.extractLsb' 0 8

/-- Why a byte sequence gives no instruction. -/
inductive DecodeError where
  /-- fewer than the two bytes every instruction has (30_encoding.md R55) -/
  | truncated
  /-- the word selects no row (30_encoding.md R61) -/
  | unsupported (w : Word)
deriving DecidableEq, Repr

/-- Total on any bytes: the instruction at their front and the bytes after it, or why there is none. -/
def decodeBytes (bytes : List Byte) : Except DecodeError (Instr × List Byte) :=
  match bytes with
  | hi :: lo :: rest =>
    match decode (wordOfBytes hi lo) with
    | some i => .ok (i, rest)
    | none => .error (.unsupported (wordOfBytes hi lo))
  | _ => .error .truncated

/-- The instruction the decoder reads from an instruction of `nbits` bits whose bits are `w` (log 9): the word is laid
out as the hardware stores it, high byte first. -/
def decodeTableWord (nbits w : Nat) : Option Instr :=
  let word : Word := BitVec.ofNat 16 (w % 2 ^ nbits)
  match decodeBytes [hiByte word, loByte word] with
  | .ok (i, _) => some i
  | .error _ => none

/-- A word of format NNN (30_encoding.md R58). -/
def encNNN (group : BitVec 4) (nnn : Addr) : Word := group ++ nnn

/-- A word of format XKK, or of format X with its function code as `kk` (30_encoding.md R58). -/
def encXKK (group : BitVec 4) (x : RegIdx) (kk : Byte) : Word := group ++ (nibbleOfReg x ++ kk)

/-- A word of format XYN, or of format XY with its function code as `n` (30_encoding.md R58). -/
def encXYN (group : BitVec 4) (x y : RegIdx) (n : BitVec 4) : Word :=
  group ++ (nibbleOfReg x ++ (nibbleOfReg y ++ n))

/-- The word of an instruction (30_encoding.md R58, R59). -/
def encode (i : Instr) : Word :=
  match i with
  | .cls => 0x00E0#16
  | .ret => 0x00EE#16
  | .sys nnn => encNNN 0x0#4 nnn
  | .jp nnn => encNNN 0x1#4 nnn
  | .call nnn => encNNN 0x2#4 nnn
  | .seImm x kk => encXKK 0x3#4 x kk
  | .sneImm x kk => encXKK 0x4#4 x kk
  | .seReg x y => encXYN 0x5#4 x y 0x0#4
  | .ldImm x kk => encXKK 0x6#4 x kk
  | .addImm x kk => encXKK 0x7#4 x kk
  | .ldReg x y => encXYN 0x8#4 x y 0x0#4
  | .orReg x y => encXYN 0x8#4 x y 0x1#4
  | .andReg x y => encXYN 0x8#4 x y 0x2#4
  | .xorReg x y => encXYN 0x8#4 x y 0x3#4
  | .addReg x y => encXYN 0x8#4 x y 0x4#4
  | .subReg x y => encXYN 0x8#4 x y 0x5#4
  | .shr x y => encXYN 0x8#4 x y 0x6#4
  | .subnReg x y => encXYN 0x8#4 x y 0x7#4
  | .shl x y => encXYN 0x8#4 x y 0xE#4
  | .sneReg x y => encXYN 0x9#4 x y 0x0#4
  | .ldI nnn => encNNN 0xA#4 nnn
  | .jpV0 nnn => encNNN 0xB#4 nnn
  | .rnd x kk => encXKK 0xC#4 x kk
  | .drw x y n => encXYN 0xD#4 x y n
  | .skp x => encXKK 0xE#4 x 0x9E#8
  | .sknp x => encXKK 0xE#4 x 0xA1#8
  | .ldVxDt x => encXKK 0xF#4 x 0x07#8
  | .ldVxK x => encXKK 0xF#4 x 0x0A#8
  | .ldDtVx x => encXKK 0xF#4 x 0x15#8
  | .ldStVx x => encXKK 0xF#4 x 0x18#8
  | .addI x => encXKK 0xF#4 x 0x1E#8
  | .ldF x => encXKK 0xF#4 x 0x29#8
  | .ldB x => encXKK 0xF#4 x 0x33#8
  | .stRegs x => encXKK 0xF#4 x 0x55#8
  | .ldRegs x => encXKK 0xF#4 x 0x65#8

/-- A row of the opcode map: the mask and the match of 30_encoding.md R59, and the instruction the row stands for,
from the word's fields. -/
structure OpcodeRow where
  mask : Word
  value : Word
  instr : Fields → Instr

/-- The word selects the row: `(w & mask) == match` (30_encoding.md R60). -/
def OpcodeRow.selects (r : OpcodeRow) (w : Word) : Bool := w &&& r.mask == r.value

/-- The rows of 30_encoding.md R59 for groups 0 to 7, in its order. -/
def opcodeRows0to7 : List OpcodeRow :=
  [ ⟨0xFFFF, 0x00E0, fun _ => .cls⟩, ⟨0xFFFF, 0x00EE, fun _ => .ret⟩, ⟨0xF000, 0x0000, fun f => .sys f.nnn⟩,
    ⟨0xF000, 0x1000, fun f => .jp f.nnn⟩, ⟨0xF000, 0x2000, fun f => .call f.nnn⟩,
    ⟨0xF000, 0x3000, fun f => .seImm f.x f.kk⟩, ⟨0xF000, 0x4000, fun f => .sneImm f.x f.kk⟩,
    ⟨0xF00F, 0x5000, fun f => .seReg f.x f.y⟩, ⟨0xF000, 0x6000, fun f => .ldImm f.x f.kk⟩,
    ⟨0xF000, 0x7000, fun f => .addImm f.x f.kk⟩ ]

/-- The rows of 30_encoding.md R59 for group 8, in its order. -/
def opcodeRows8 : List OpcodeRow :=
  [ ⟨0xF00F, 0x8000, fun f => .ldReg f.x f.y⟩, ⟨0xF00F, 0x8001, fun f => .orReg f.x f.y⟩,
    ⟨0xF00F, 0x8002, fun f => .andReg f.x f.y⟩, ⟨0xF00F, 0x8003, fun f => .xorReg f.x f.y⟩,
    ⟨0xF00F, 0x8004, fun f => .addReg f.x f.y⟩, ⟨0xF00F, 0x8005, fun f => .subReg f.x f.y⟩,
    ⟨0xF00F, 0x8006, fun f => .shr f.x f.y⟩, ⟨0xF00F, 0x8007, fun f => .subnReg f.x f.y⟩,
    ⟨0xF00F, 0x800E, fun f => .shl f.x f.y⟩ ]

/-- The rows of 30_encoding.md R59 for groups 9 to E, in its order. -/
def opcodeRows9toE : List OpcodeRow :=
  [ ⟨0xF00F, 0x9000, fun f => .sneReg f.x f.y⟩, ⟨0xF000, 0xA000, fun f => .ldI f.nnn⟩,
    ⟨0xF000, 0xB000, fun f => .jpV0 f.nnn⟩, ⟨0xF000, 0xC000, fun f => .rnd f.x f.kk⟩,
    ⟨0xF000, 0xD000, fun f => .drw f.x f.y f.n⟩, ⟨0xF0FF, 0xE09E, fun f => .skp f.x⟩,
    ⟨0xF0FF, 0xE0A1, fun f => .sknp f.x⟩ ]

/-- The rows of 30_encoding.md R59 for group F, in its order. -/
def opcodeRowsF : List OpcodeRow :=
  [ ⟨0xF0FF, 0xF007, fun f => .ldVxDt f.x⟩, ⟨0xF0FF, 0xF00A, fun f => .ldVxK f.x⟩,
    ⟨0xF0FF, 0xF015, fun f => .ldDtVx f.x⟩, ⟨0xF0FF, 0xF018, fun f => .ldStVx f.x⟩,
    ⟨0xF0FF, 0xF01E, fun f => .addI f.x⟩, ⟨0xF0FF, 0xF029, fun f => .ldF f.x⟩,
    ⟨0xF0FF, 0xF033, fun f => .ldB f.x⟩, ⟨0xF0FF, 0xF055, fun f => .stRegs f.x⟩,
    ⟨0xF0FF, 0xF065, fun f => .ldRegs f.x⟩ ]

/-- The opcode map of 30_encoding.md R59: 35 rows, in its order, which is the order of decode priority (R60). -/
def opcodeTable : List OpcodeRow := opcodeRows0to7 ++ opcodeRows8 ++ opcodeRows9toE ++ opcodeRowsF

/-- The decoder as R60 words it: the first row whose `(w & mask) == match`. -/
def decodeByTable (w : Word) : Option Instr :=
  (opcodeTable.find? (fun r => r.selects w)).map (fun r => r.instr (fields w))

end Sys2Proof
end

