-- ==== Sys2Proof/Machine/ControlFlow.lean ====
section
/-!
DEFINITION. The control flow instructions (41_control_flow.md). Every meaning starts from the state whose pc is already
the address after the instruction (40_execution_cycle.md R70).
-/

namespace Sys2Proof.Machine

/-- SYS nnn: nothing (41_control_flow.md R77). -/
def execSys (_nnn : Addr) (s : State) : Result := .next s

/-- RET: pop into pc; nothing on an empty stack (41_control_flow.md R78). -/
def execRet (s : State) : Result :=
  match s.pop? with
  | some (ret, t) => .next (t.setPc ret)
  | none => .next s

/-- JP nnn: `pc <- zext_16(nnn)` (41_control_flow.md R79). -/
def execJp (nnn : Addr) (s : State) : Result := .next (s.setPc (zextAddr nnn))

/-- CALL nnn: push the advanced pc and jump; at depth 16 take `StackOverflow` (41_control_flow.md R80, 60_exceptions.md
R117). The report's opcode is the CALL's own word and its address is the advanced pc less 2 (log 10). -/
def execCall (nnn : Addr) (s : State) : Result :=
  match s.push? s.pc with
  | some t => .next (t.setPc (zextAddr nnn))
  | none => .next (s.raiseFault .stackOverflow (encode (.call nnn)) (s.pc - 2))

/-- SE Vx, kk (41_control_flow.md R81). -/
def execSeImm (x : RegIdx) (kk : Byte) (s : State) : Result := .next (s.skipIf (s.getV x == kk))

/-- SNE Vx, kk (41_control_flow.md R82). -/
def execSneImm (x : RegIdx) (kk : Byte) (s : State) : Result := .next (s.skipIf (s.getV x != kk))

/-- SE Vx, Vy (41_control_flow.md R83). -/
def execSeReg (x y : RegIdx) (s : State) : Result := .next (s.skipIf (s.getV x == s.getV y))

/-- SNE Vx, Vy (41_control_flow.md R84). -/
def execSneReg (x y : RegIdx) (s : State) : Result := .next (s.skipIf (s.getV x != s.getV y))

/-- JP V0, nnn (41_control_flow.md R85). -/
def execJpV0 (nnn : Addr) (s : State) : Result := .next (s.setPc (s.v0Target nnn))

end Sys2Proof.Machine
end

