-- ==== Sys2Proof/Machine/Display.lean ====
section
/-!
DEFINITION. The display instructions (43_display.md): CLS, and DRW with its edge policy and its collision flag.
-/

namespace Sys2Proof.Machine

/-- The display while a sprite is drawn, and whether a set pixel has been erased. -/
structure Canvas where
  cells : Vector Bool 2048
  hit : Bool
deriving DecidableEq, Repr

/-- The target cell of `Plot(px, py)`, `none` where the pixel is dropped (43_display.md R101). -/
def plotTarget (edge : DrawEdge) (px py : Nat) : Option (Fin 2048) :=
  match edge with
  | .clip => if h : px < 64 ∧ py < 32 then some ⟨px + py * 64, by omega⟩ else none
  | .wrap => some ⟨px % 64 + py % 32 * 64, by omega⟩

/-- `Plot(px, py)`: collision, then XOR (43_display.md R100 step 4, R101). -/
def plot (edge : DrawEdge) (px py : Nat) (cv : Canvas) : Canvas :=
  match plotTarget edge px py with
  | none => cv
  | some p => { cells := cv.cells.set p.val (!cv.cells[p.val]), hit := cv.hit || cv.cells[p.val] }

/-- Column `c` of a sprite byte: bit `7 - c` (43_display.md R102). -/
def spriteBit (b : Byte) (c : Nat) : Bool := b.getLsbD (7 - c)

/-- Draw one sprite byte on row `py` from column `cx` on (43_display.md R100 step 3). -/
def drawByte (edge : DrawEdge) (cx py : Nat) (b : Byte) (cv : Canvas) : Canvas :=
  (List.range 8).foldl (fun acc c => if spriteBit b c then plot edge (cx + c) py acc else acc) cv

/-- Draw the sprite's rows from row `py` down (43_display.md R100 step 3). -/
def drawRows (edge : DrawEdge) (cx py : Nat) (rows : List Byte) (cv : Canvas) : Canvas :=
  match rows with
  | [] => cv
  | b :: bs => drawRows edge cx (py + 1) bs (drawByte edge cx py b cv)

/-- The canvas after DRW's drawing, from the origin and rows that the state gives (43_display.md R100). -/
def State.drawnSprite (s : State) (x y : RegIdx) (n : BitVec 4) : Canvas :=
  drawRows s.params.drawEdge (s.spriteCol x) (s.spriteRow y) (s.spriteRows n) { cells := s.display, hit := false }

/-- CLS (43_display.md R99). -/
def execCls (s : State) : Result := .next (s.showDisplay (Vector.replicate 2048 false))

/-- DRW Vx, Vy, n: VF = collision (43_display.md R100). -/
def execDrw (x y : RegIdx) (n : BitVec 4) (s : State) : Result :=
  .next ((s.setV vf (flagByte (s.drawnSprite x y n).hit)).showDisplay (s.drawnSprite x y n).cells)

end Sys2Proof.Machine
end

