-- ==== Sys2Proof/Machine/IndexMemory.lean ====
section
/-!
DEFINITION. The index and memory instructions (45_index_memory.md). I is never changed by a load or a store.
-/

namespace Sys2Proof.Machine

/-- LD I, nnn (45_index_memory.md R109). -/
def execLdI (nnn : Addr) (s : State) : Result := .next (s.setI (zextAddr nnn))

/-- ADD I, Vx: `I <- u16(I + V[x])`, no flag (45_index_memory.md R110). -/
def execAddI (x : RegIdx) (s : State) : Result := .next (s.setI (u16 (s.i.toNat + (s.getV x).toNat)))

/-- LD F, Vx (45_index_memory.md R111). -/
def execLdF (x : RegIdx) (s : State) : Result := .next (s.setI (glyphAddress (s.getV x)))

/-- LD B, Vx: the three decimal digits to I, I+1, I+2 (45_index_memory.md R112). -/
def execLdB (x : RegIdx) (s : State) : Result := .next (s.storeBytes s.i.toNat (bcdDigits (s.getV x)))

/-- LD [I], Vx: V0..Vx to I.. (45_index_memory.md R113). -/
def execStRegs (x : RegIdx) (s : State) : Result := .next (s.storeBytes s.i.toNat (s.regsUpTo x))

/-- LD Vx, [I]: V0..Vx from I.. (45_index_memory.md R114). -/
def execLdRegs (x : RegIdx) (s : State) : Result := .next { s with v := s.loadedRegs s.i.toNat x }

end Sys2Proof.Machine
end

