-- ==== Sys2Proof/Machine/KeypadTimers.lean ====
section
/-!
DEFINITION. The keypad and timer instructions (44_keypad_timers.md). Keys are read as they stand at the start of the Step
(40_execution_cycle.md R75).
-/

namespace Sys2Proof.Machine

/-- SKP Vx (44_keypad_timers.md R103). -/
def execSkp (x : RegIdx) (s : State) : Result := .next (s.skipIf (s.keyDown (keyOf (s.getV x))))

/-- SKNP Vx (44_keypad_timers.md R104). -/
def execSknp (x : RegIdx) (s : State) : Result := .next (s.skipIf (!s.keyDown (keyOf (s.getV x))))

/-- LD Vx, K: take the least key down, or wait by rewinding pc, a completed Step (44_keypad_timers.md R105). -/
def execLdVxK (x : RegIdx) (s : State) : Result :=
  match s.leastKey with
  | some k => .next (s.setV x (u8 k.val))
  | none => .next s.rewind

/-- LD Vx, DT (44_keypad_timers.md R106). -/
def execLdVxDt (x : RegIdx) (s : State) : Result := .next (s.setV x s.dt)

/-- LD DT, Vx (44_keypad_timers.md R107). -/
def execLdDtVx (x : RegIdx) (s : State) : Result := .next (s.setDt (s.getV x))

/-- LD ST, Vx (44_keypad_timers.md R108). -/
def execLdStVx (x : RegIdx) (s : State) : Result := .next (s.setSt (s.getV x))

end Sys2Proof.Machine
end

