-- ==== Sys2Proof/Machine/Cycle.lean ====
section
/-!
DEFINITION. The operations of a run: `Step` (40_execution_cycle.md R68), `Tick` (60_exceptions.md R127 to R131), `SetKeypad`
and `AckRedraw` (70_reset_and_hazards.md R142, R143), and the choice of the one that happens next (log 2).
-/

namespace Sys2Proof.Machine

/-- A fetch at this pc reads memory: `pc <= 0xFFE` (20_memory.md R43). -/
def State.canFetch (s : State) : Bool := decide (s.pc.toNat ≤ Config.lastFetchPc)

/-- The instruction word `mem[pc] * 256 + mem[pc + 1]` (20_memory.md R43). -/
def State.fetchWord (s : State) : Word := wordOfBytes (s.peek s.pc.toNat) (s.peek (s.pc.toNat + 1))

/-- The state an instruction's own effect starts from: the Step's `rnd` at its input and pc advanced by 2
(40_execution_cycle.md R70, R74). -/
def State.beginInstr (s : State) (rnd : Byte) : State := { s with rnd := rnd, pc := s.pc + 2 }

/-- `Step(rnd)`, in the order of 40_execution_cycle.md R68. -/
def stepOp (rnd : Byte) (s : State) : Result :=
  match s.status with
  | .halted code opcode faultPc => .fault (.halted code opcode faultPc)
  | .running =>
    if s.canFetch then
      match decode s.fetchWord with
      | some i => exec i (s.beginInstr rnd)
      | none => .next ((s.beginInstr rnd).raiseFault .unsupportedOpcode s.fetchWord s.pc)
    else .next (s.raiseFault .pcOutOfRange 0 s.pc)

/-- At least 1/60 s has elapsed: `60 * elapsed_ns >= 1_000_000_000` (60_exceptions.md R127). -/
def tickEffective (elapsedNs : Nat) : Bool := decide (Config.timerHz * elapsedNs ≥ Config.nsPerSecond)

/-- One decrement, "never below 0" (60_exceptions.md R128). -/
def countDown (t : Byte) : Byte := u8 (t.toNat - 1)

/-- `Tick(elapsed_ns)` on a running core: the timers and the beep it reports (60_exceptions.md R128, R129). -/
def State.ticked (s : State) (elapsedNs : Nat) : State :=
  if tickEffective elapsedNs then { s with dt := countDown s.dt, st := countDown s.st, beep := s.st == 1 }
  else { s with beep := false }

/-- `Tick(elapsed_ns)`; a halted core has no transition (60_exceptions.md R131). -/
def tickOp (elapsedNs : Nat) (s : State) : Result :=
  match s.status with
  | .halted code opcode faultPc => .fault (.halted code opcode faultPc)
  | .running => .next (s.ticked elapsedNs)

/-- `SetKeypad(k)`, in any status (70_reset_and_hazards.md R142). -/
def State.setKeypad (s : State) (keys : Vector Bool 16) : State := { s with key := keys }

/-- `AckRedraw`, in any status (70_reset_and_hazards.md R143). -/
def State.ackRedraw (s : State) : State := { s with redraw := false }

/-- One operation of a run. -/
def runOp (op : RunOp) (s : State) : Result :=
  match op with
  | .setKeypad keys => .next (s.setKeypad keys)
  | .step rnd => stepOp rnd s
  | .tick elapsedNs => tickOp elapsedNs s
  | .ackRedraw => .next s.ackRedraw

/-- One step of the machine: the schedule's next operation, or, where the schedule is empty, `Step` with a free `rnd`
(70_reset_and_hazards.md R145, 40_execution_cycle.md R74; log 1, log 2). -/
def stepOnce (s : State) : Result :=
  match s.pending with
  | op :: rest => runOp op { s with pending := rest }
  | [] => stepOp (Config.freeRandomByte s.draws) { s with draws := s.draws + 1 }

/-- The instruction whose bits are `w` placed where the next step fetches it (log 9): the schedule is emptied, the core
runs, and a pc no fetch can use becomes `PC_RESET`. -/
def State.placeWord (s : State) (nbits w : Nat) : State :=
  let word : Word := BitVec.ofNat 16 (w % 2 ^ nbits)
  let t := { s with pending := [], status := .running, pc := if s.canFetch then s.pc else Config.pcReset }
  (t.poke t.pc.toNat (hiByte word)).poke (t.pc.toNat + 1) (loByte word)

end Sys2Proof.Machine
end

