-- ==== Sys2Proof/Machine/Step.lean ====
section
/-!
DEFINITION. The step of the machine and the placing of an instruction where the next step fetches it.
-/

namespace Sys2Proof.Machine

/-- One step: one operation of a run (70_reset_and_hazards.md R145; log 2). -/
def step (s : State) : Host.Outcome State Fault Refusal := stepOnce s

/-- The state whose next step fetches and runs the instruction of bits `w` (log 9). -/
def State.withFetchWord (s : State) (nbits w : Nat) : State := s.placeWord nbits w

end Sys2Proof.Machine
end

