-- ==== Sys2Proof/Machine/HostOps.lean ====
section
/-!
DEFINITION. The host operations that are not operations of a run, `Reset` and `LoadRom` (70_reset_and_hazards.md R137 to
R140), and the sequences of operations a model admits (R141, R145).
-/

namespace Sys2Proof.Machine

/-- The six host operations (00_scope.md R5). -/
inductive Operation where
  /-- `Reset` (70_reset_and_hazards.md R137) -/
  | reset
  /-- `LoadRom(bytes)` (70_reset_and_hazards.md R139) -/
  | loadRom (bytes : List Byte)
  /-- `SetKeypad`, `Step`, `Tick` or `AckRedraw` -/
  | run (op : RunOp)
deriving DecidableEq, Repr

/-- Where in a run the core is: a constraint on the sequence of operations, no state field (70_reset_and_hazards.md
R139). -/
inductive Phase where
  /-- before the first `Reset` (10_state.md R35) -/
  | uninitialised
  /-- directly after `Reset` (70_reset_and_hazards.md R139) -/
  | resetDone
  /-- after `LoadRom` (70_reset_and_hazards.md R145) -/
  | loaded
deriving DecidableEq, Repr

/-- `LoadRom(bytes)`: copy to 0x200 and up, or take `RomTooLarge` (70_reset_and_hazards.md R139, R140; 60_exceptions.md
R119). -/
def State.loadRom (s : State) (bytes : List Byte) : State :=
  if bytes.length ≤ Config.romMax then
    { s with mem := Memory.copy s.params.font s.mem Config.progBase bytes }
  else s.raiseFault .romTooLarge 0 s.pc

/-- One host operation. -/
def applyOperation (op : Operation) (s : State) : Result :=
  match op with
  | .reset => .next s.resetCore
  | .loadRom bytes => .next (s.loadRom bytes)
  | .run r => runOp r s

/-- The phase after an operation, or why it is not admitted: `Reset` at any time (70_reset_and_hazards.md R137), `LoadRom`
directly after it (R139), then any sequence of the other four (R141, R145). Log 7. -/
def Phase.after (p : Phase) (op : Operation) : Except Refusal Phase :=
  match op, p with
  | .reset, _ => .ok .resetDone
  | _, .uninitialised => .error .coreNotReset
  | .loadRom _, .resetDone => .ok .loaded
  | .loadRom _, .loaded => .error .loadRomNotAfterReset
  | .run _, .resetDone => .error .romNotLoaded
  | .run _, .loaded => .ok .loaded

/-- A sequence of host operations from a phase and a state. -/
def runOps (p : Phase) (s : State) (ops : List Operation) : Result :=
  match ops with
  | [] => .next s
  | op :: rest =>
    match p.after op with
    | .error r => .refused r
    | .ok q =>
      match applyOperation op s with
      | .next t => runOps q t rest
      | .fault f => .fault f
      | .refused r => .refused r

end Sys2Proof.Machine
end

