-- ==== Sys2Proof/Safety.lean ====
section
/-!
DEFINITION. The terms the claims are written in: the words of the opcode map as arithmetic (30_encoding.md R58), what an
instruction leaves unchanged, which parts of the state it may write (10_state.md R32), what a program can see (R29), the
cells a sprite covers (43_display.md R100, R101) and the invariant of a safe state.
-/

namespace Sys2Proof.Machine

/-- The word `g nnn` of format NNN, as a sum of its fields in their places (30_encoding.md R58). -/
def addrWord (g : Nat) (nnn : Addr) : Word := BitVec.ofNat 16 (g * 0x1000 + nnn.toNat)

/-- The word `g x kk` of formats XKK and X (30_encoding.md R58). -/
def byteWord (g : Nat) (x : RegIdx) (kk : Byte) : Word := BitVec.ofNat 16 (g * 0x1000 + x.val * 0x100 + kk.toNat)

/-- The word `g x y n` of formats XY and XYN (30_encoding.md R58). -/
def nibbleWord (g : Nat) (x y : RegIdx) (n : BitVec 4) : Word :=
  BitVec.ofNat 16 (g * 0x1000 + x.val * 0x100 + y.val * 0x10 + n.toNat)

/-- The word `mem[a] * 256 + mem[a + 1]` (20_memory.md R43). -/
def State.wordAt (s : State) (a : Nat) : Word := BitVec.ofNat 16 ((s.peek a).toNat * 256 + (s.peek (a + 1)).toNat)

/-- The parts of the state an instruction may write (10_state.md R32). -/
inductive Part where
  | regs | index | pc | stack | delayTimer | soundTimer | memory | display | redraw | status
deriving DecidableEq, Repr

/-- `t` is `s` but for the parts of `w`. No instruction writes the keys, the parameters or what the host and the schedule
hold. Memory is compared by reading each of its bytes. -/
structure SameExcept (w : List Part) (s t : State) : Prop where
  regs : Part.regs ∉ w → ∀ j, t.getV j = s.getV j
  index : Part.index ∉ w → t.i = s.i
  pc : Part.pc ∉ w → t.pc = s.pc
  stack : Part.stack ∉ w → t.stack = s.stack ∧ t.sp = s.sp
  delayTimer : Part.delayTimer ∉ w → t.dt = s.dt
  soundTimer : Part.soundTimer ∉ w → t.st = s.st
  memory : Part.memory ∉ w → ∀ a, t.peek a = s.peek a
  display : Part.display ∉ w → ∀ c r, t.pix c r = s.pix c r
  redraw : Part.redraw ∉ w → t.redraw = s.redraw
  status : Part.status ∉ w → t.status = s.status
  keys : t.key = s.key
  params : t.params = s.params
  host : t.beep = s.beep ∧ t.rnd = s.rnd ∧ t.draws = s.draws ∧ t.pending = s.pending

/-- No register but those of `xs` changes. -/
def OnlyRegs (xs : List RegIdx) (s t : State) : Prop := ∀ j, j ∉ xs → t.getV j = s.getV j

/-- No byte changes but the `n` bytes stored at `EA(a)`, `EA(a + 1)`, ... (20_memory.md R46). -/
def OnlyBytes (a n : Nat) (s t : State) : Prop := ∀ b, (∀ j, j < n → b ≠ ea (a + j)) → t.peek b = s.peek b

/-- The "written by" column of 10_state.md R32, with the status that a CALL may halt (60_exceptions.md R117). -/
def instrWrites (i : Instr) : List Part :=
  match i with
  | .sys _ => []
  | .jp _ | .jpV0 _ | .seImm _ _ | .sneImm _ _ | .seReg _ _ | .sneReg _ _ | .skp _ | .sknp _ => [.pc]
  | .ret => [.stack, .pc]
  | .call _ => [.stack, .pc, .status]
  | .ldImm _ _ | .addImm _ _ | .ldReg _ _ | .orReg _ _ | .andReg _ _ | .xorReg _ _ | .addReg _ _ | .subReg _ _
  | .shr _ _ | .subnReg _ _ | .shl _ _ | .rnd _ _ | .ldVxDt _ | .ldRegs _ => [.regs]
  | .ldVxK _ => [.regs, .pc]
  | .ldI _ | .addI _ | .ldF _ => [.index]
  | .ldDtVx _ => [.delayTimer]
  | .ldStVx _ => [.soundTimer]
  | .ldB _ | .stRegs _ => [.memory]
  | .cls => [.display, .redraw]
  | .drw _ _ _ => [.regs, .display, .redraw]

/-- The registers an instruction may write: its destination, VF where the instruction has it as a flag (10_state.md R17),
`V0..Vx` for `LD Vx, [I]`. -/
def instrDests (i : Instr) : List RegIdx :=
  match i with
  | .ldImm x _ | .addImm x _ | .ldReg x _ | .orReg x _ | .andReg x _ | .xorReg x _ | .rnd x _ | .ldVxDt x
  | .ldVxK x => [x]
  | .addReg x _ | .subReg x _ | .shr x _ | .subnReg x _ | .shl x _ => [x, vf]
  | .drw _ _ _ => [vf]
  | .ldRegs x => (List.finRange 16).filter (fun j => j.val ≤ x.val)
  | .cls | .ret | .sys _ | .jp _ | .call _ | .seImm _ _ | .sneImm _ _ | .seReg _ _ | .sneReg _ _ | .ldI _ | .jpV0 _
  | .skp _ | .sknp _ | .ldDtVx _ | .ldStVx _ | .addI _ | .ldF _ | .ldB _ | .stRegs _ => []

/-- `s` and `t` agree on all that an instruction can read. Not compared: stack entries at index `>= SP` (10_state.md R20),
ST (R22), `redraw` (R26), the beep and the schedule. -/
structure ProgramView (s t : State) : Prop where
  regs : s.v = t.v
  index : s.i = t.i
  pc : s.pc = t.pc
  depth : s.sp = t.sp
  live : ∀ k : Fin 16, k.val < s.sp.val → s.stack[k.val] = t.stack[k.val]
  delayTimer : s.dt = t.dt
  memory : s.mem = t.mem
  display : s.display = t.display
  keys : s.key = t.key
  status : s.status = t.status
  random : s.rnd = t.rnd
  params : s.params = t.params

/-- The sprite of `DRW Vx, Vy, n` has a set bit on cell `(c, r)`: its row and column offsets from the origin, clipped or
wrapped as `DRAW_EDGE` says (43_display.md R100, R101), and bit `7 - column offset` of the row's byte (R102). -/
def State.spriteCovers (s : State) (x y : RegIdx) (n : BitVec 4) (c : Fin 64) (r : Fin 32) : Bool :=
  let cx := (s.getV x).toNat % 64
  let cy := (s.getV y).toNat % 32
  match s.params.drawEdge with
  | .clip =>
    decide (cx ≤ c.val ∧ c.val < cx + 8 ∧ cy ≤ r.val ∧ r.val < cy + n.toNat)
      && (s.memRead (s.i.toNat + (r.val - cy))).getLsbD (7 - (c.val - cx))
  | .wrap =>
    decide ((c.val + 64 - cx) % 64 < 8 ∧ (r.val + 32 - cy) % 32 < n.toNat)
      && (s.memRead (s.i.toNat + (r.val + 32 - cy) % 32)).getLsbD (7 - (c.val + 64 - cx) % 64)

/-- The program has stopped at `a`: a JP to itself stands at pc (70_reset_and_hazards.md R152 (b)). -/
def State.StoppedAt (s : State) (a : Addr) : Prop :=
  s.pc.toNat = a.toNat ∧ a.toNat ≤ Config.lastFetchPc ∧ s.wordAt a.toNat = addrWord 0x1 a

/-- The run has ended, by a fault or at a JP to itself (70_reset_and_hazards.md R152). -/
def State.RunEnded (s : State) : Prop :=
  (∃ code opcode faultPc, s.status = .halted code opcode faultPc) ∨ ∃ a, s.StoppedAt a

/-- The highest pc a program can reach, the greatest target of `JP V0` (41_control_flow.md R85). -/
def maxPc : Nat := 0x10FE

/-- The highest return address, pushed by a CALL at 0xFFE (41_control_flow.md R80). -/
def maxReturn : Nat := 0x1000

/-- What a fault report says of the state it stands in (60_exceptions.md R115 to R119). -/
def reportOk (t : Status) (sp : Fin 17) : Prop :=
  match t with
  | .running => True
  | .halted .unsupportedOpcode opcode faultPc => decode opcode = none ∧ faultPc.toNat ≤ Config.lastFetchPc
  | .halted .stackOverflow opcode faultPc =>
    (∃ nnn, decode opcode = some (.call nnn)) ∧ faultPc.toNat ≤ Config.lastFetchPc ∧ sp.val = 16
  | .halted .pcOutOfRange opcode faultPc => opcode = 0 ∧ Config.lastFetchPc < faultPc.toNat ∧ faultPc.toNat ≤ maxPc
  | .halted .romTooLarge opcode faultPc => opcode = 0 ∧ faultPc.toNat ≤ maxPc

/-- The invariant of a safe state: memory is canonical; pc and the return addresses stay in the ranges the control flow
rules give (40_execution_cycle.md R69, 41_control_flow.md R78, R85), so no pc arithmetic wraps; a fault report is one the
machine can have made. -/
structure State.Inv (s : State) : Prop where
  memory : Memory.wf s.params.font s.mem
  pc : s.pc.toNat ≤ maxPc
  returns : ∀ k : Fin 16, s.stack[k.val].toNat ≤ maxReturn
  report : reportOk s.status s.sp

end Sys2Proof.Machine
end

