-- ==== Sys2Proof/Certificates/Slice0/Obligations.lean ====
section
/-!
DEFINITION. The statements about the machine, from the numbered rules of spec/. Each docstring names its rules; a clause that
is the model's own choice names its log entry.
-/

open Sys2Proof Sys2Proof.Machine

/-! Encoding -/

/-- 30_encoding.md R59: words written out from the opcode map decode to their instructions, one or more of each family, and
words of the unsupported space (R61) to none. -/
def Obligations.KnownWordsDecode : Prop :=
  decode 0x00E0 = some .cls ∧ decode 0x00EE = some .ret ∧ decode 0x0123 = some (.sys 0x123) ∧
  decode 0x2210 = some (.call 0x210) ∧ decode 0x3A42 = some (.seImm 0xA 0x42) ∧ decode 0x9120 = some (.sneReg 1 2) ∧
  decode 0x6A42 = some (.ldImm 0xA 0x42) ∧ decode 0x8124 = some (.addReg 1 2) ∧ decode 0x8FFE = some (.shl 0xF 0xF) ∧
  decode 0xD125 = some (.drw 1 2 5) ∧ decode 0xE59E = some (.skp 5) ∧ decode 0xF20A = some (.ldVxK 2) ∧
  decode 0xA300 = some (.ldI 0x300) ∧ decode 0xF155 = some (.stRegs 1) ∧
  decode 0x8008 = none ∧ decode 0x5121 = none ∧ decode 0xE000 = none ∧ decode 0xF000 = none ∧ decode 0xFFFF = none

/-- 30_encoding.md, Formats and Opcode map: every well-formed instruction's word decodes to it, with every operand at every
value its field admits. -/
def Obligations.DecodeInvertsEncode : Prop :=
  ∀ i : Instr, WellFormed i = true → decode (encode i) = some i

/-- 30_encoding.md, Opcode map: a word that decodes is the word of the instruction it decodes to, so each instruction has
exactly one word, and what the decoder gives is well-formed. -/
def Obligations.EncodeInvertsDecode : Prop :=
  ∀ (w : Word) (i : Instr), decode w = some i → encode i = w ∧ WellFormed i = true

/-- 30_encoding.md R60: dispatch on the fields selects the first row of R59 whose `(w & mask) == match`; 00E0 and 00EE are
CLS and RET and every other word of group 0 is SYS; two rows match one word only where the later row is SYS and the word is
00E0 or 00EE. -/
def Obligations.DecodeSelectsFirstMatchingRow : Prop :=
  (∀ w : Word, decode w = decodeByTable w) ∧
  (decode 0x00E0 = some .cls ∧ decode 0x00EE = some .ret ∧
    ∀ nnn : Addr, nnn ≠ 0x0E0 → nnn ≠ 0x0EE → decode (addrWord 0x0 nnn) = some (.sys nnn)) ∧
  (∀ (w : Word) (a b : Nat) (p q : OpcodeRow), a < b → opcodeTable[a]? = some p → opcodeTable[b]? = some q →
    p.selects w = true → q.selects w = true → b = 2 ∧ (w = 0x00E0 ∨ w = 0x00EE))

/-- 30_encoding.md R61: the unsupported words, by group, low nibble and low byte. -/
def Obligations.UnsupportedWordsAreThese : Prop :=
  ∀ w : Word, decode w = none ↔
    ((w.toNat / 0x1000 = 0x5 ∨ w.toNat / 0x1000 = 0x9) ∧ w.toNat % 16 ≠ 0) ∨
    (w.toNat / 0x1000 = 0x8 ∧ w.toNat % 16 ∈ [0x8, 0x9, 0xA, 0xB, 0xC, 0xD, 0xF]) ∨
    (w.toNat / 0x1000 = 0xE ∧ w.toNat % 256 ∉ [0x9E, 0xA1]) ∨
    (w.toNat / 0x1000 = 0xF ∧ w.toNat % 256 ∉ [0x07, 0x0A, 0x15, 0x18, 0x1E, 0x29, 0x33, 0x55, 0x65])

/-! The execution cycle -/

/-- 40_execution_cycle.md R70: a Step whose fetched word decodes to `i` advances pc by 2 and then has `i`'s effect. -/
def Obligations.StepAdvancesPcThenActs : Prop :=
  ∀ (rnd : Byte) (s : State) (i : Instr), s.status = .running → s.pc.toNat ≤ 0xFFE →
    decode (s.wordAt s.pc.toNat) = some i → stepOp rnd s = exec i { s with rnd := rnd, pc := s.pc + 2 }

/-- 40_execution_cycle.md, Step: where the bytes at pc decode to `i`, the machine's step is `exec i` on the state with pc
advanced by 2. What stands around it is the model's choice (log 1 and 2): the `rnd` input is the schedule's byte, or some
byte where the schedule is empty. -/
def Obligations.StepRunsDecodedInstruction : Prop :=
  ∀ (s : State) (i : Instr), s.status = .running → s.pc.toNat ≤ 0xFFE → decode (s.wordAt s.pc.toNat) = some i →
    (∀ rnd rest, s.pending = .step rnd :: rest →
      step s = exec i { s with pending := rest, rnd := rnd, pc := s.pc + 2 }) ∧
    (s.pending = [] →
      ∃ rnd, step s = exec i { s with draws := s.draws + 1, rnd := rnd, pc := s.pc + 2 })

/-- 60_exceptions.md R118, 40_execution_cycle.md R69: a fetch with `pc > 0xFFE` halts with `PcOutOfRange` and changes nothing
else. -/
def Obligations.FetchBeyondMemoryHalts : Prop :=
  ∀ (rnd : Byte) (s : State), s.status = .running → 0xFFE < s.pc.toNat →
    stepOp rnd s = .next { s with status := .halted .pcOutOfRange 0x0000 s.pc }

/-- 60_exceptions.md R116: a word that selects no instruction halts with `UnsupportedOpcode`; the pc advance has happened,
the report holds the word and its address, and nothing else changes (`rnd` is the Step's input, log 1). -/
def Obligations.UnsupportedWordHalts : Prop :=
  ∀ (rnd : Byte) (s : State), s.status = .running → s.pc.toNat ≤ 0xFFE → decode (s.wordAt s.pc.toNat) = none →
    stepOp rnd s = .next { s with
      rnd := rnd, pc := s.pc + 2, status := .halted .unsupportedOpcode (s.wordAt s.pc.toNat) s.pc }

/-- 60_exceptions.md R117: a Step on a CALL with 16 entries on the stack halts with `StackOverflow`: nothing is pushed, pc is
advanced, the report holds the CALL's word and address. -/
def Obligations.CallBeyondDepthSixteenHalts : Prop :=
  ∀ (rnd : Byte) (s : State) (nnn : Addr), s.status = .running → s.pc.toNat ≤ 0xFFE →
    s.wordAt s.pc.toNat = addrWord 0x2 nnn → s.sp.val = 16 →
    stepOp rnd s = .next { s with
      rnd := rnd, pc := s.pc + 2, status := .halted .stackOverflow (s.wordAt s.pc.toNat) s.pc }

/-- 60_exceptions.md R120, R121, and R123, which the spec marks as derived from R116, R117 and R118: on a running core a Step
always answers a next state, and that state is running or is one of the three faults, with the pc advance as the one change
the faulting instruction has made. That the byte `rnd` is taken into the state is the model's choice (log 1). -/
def Obligations.FaultsArePrecise : Prop :=
  ∀ (rnd : Byte) (s : State), s.status = .running → ∃ t, stepOp rnd s = .next t ∧
    (t.status = .running ∨
     (0xFFE < s.pc.toNat ∧ t = { s with status := .halted .pcOutOfRange 0x0000 s.pc }) ∨
     (s.pc.toNat ≤ 0xFFE ∧ decode (s.wordAt s.pc.toNat) = none ∧
       t = { s with
         rnd := rnd, pc := s.pc + 2, status := .halted .unsupportedOpcode (s.wordAt s.pc.toNat) s.pc }) ∨
     (s.pc.toNat ≤ 0xFFE ∧ (∃ nnn, decode (s.wordAt s.pc.toNat) = some (.call nnn)) ∧ s.sp.val = 16 ∧
       t = { s with
         rnd := rnd, pc := s.pc + 2, status := .halted .stackOverflow (s.wordAt s.pc.toNat) s.pc }))

/-- On a halted core Step (40_execution_cycle.md R67) and Tick (60_exceptions.md R131) have no transition. That the outcome is
then a fault that carries the report is the model's choice (log 4). -/
def Obligations.HaltedCoreHasNoStepAndNoTick : Prop :=
  ∀ (s : State) (code : FaultCode) (opcode faultPc : Word), s.status = .halted code opcode faultPc →
    (∀ rnd, stepOp rnd s = .fault (.halted code opcode faultPc)) ∧
    (∀ ns, tickOp ns s = .fault (.halted code opcode faultPc))

/-- 60_exceptions.md R122, R124: whatever operations of a run a halted core is given, its status keeps the first fault and
nothing but the keys and `redraw` changes; `Reset` leaves `Halted`. -/
def Obligations.HaltedStatusIsKeptUntilReset : Prop :=
  ∀ (s : State) (code : FaultCode) (opcode faultPc : Word), s.status = .halted code opcode faultPc →
    (∀ (ops : List RunOp) (t : State), runOps .loaded s (ops.map .run) = .next t →
      t = { s with key := t.key, redraw := t.redraw }) ∧
    (∃ t, applyOperation .reset s = .next t ∧ t.status = .running)

/-! Control flow -/

/-- 41_control_flow.md R77: SYS does nothing. -/
def Obligations.SysDoesNothing : Prop :=
  ∀ (nnn : Addr) (s : State),
    (nnn ≠ 0x0E0 → nnn ≠ 0x0EE → decode (addrWord 0x0 nnn) = some (.sys nnn)) ∧
    ∃ t, exec (.sys nnn) s = .next t ∧ SameExcept [] s t

/-- 41_control_flow.md R78: RET pops into pc; with an empty stack it does nothing. -/
def Obligations.RetPopsIntoPcOrDoesNothing : Prop :=
  ∀ s : State, decode 0x00EE = some .ret ∧
    (0 < s.sp.val → ∃ t, exec .ret s = .next t ∧ t.sp.val = s.sp.val - 1 ∧ t.pc = s.stack[s.sp.val - 1] ∧
      t.stack = s.stack ∧ SameExcept [.stack, .pc] s t) ∧
    (s.sp.val = 0 → ∃ t, exec .ret s = .next t ∧ SameExcept [] s t)

/-- 41_control_flow.md R79, R85: the jumps. -/
def Obligations.JumpsSetPc : Prop :=
  ∀ (nnn : Addr) (s : State),
    (decode (addrWord 0x1 nnn) = some (.jp nnn) ∧
      ∃ t, exec (.jp nnn) s = .next t ∧ t.pc.toNat = nnn.toNat ∧ SameExcept [.pc] s t) ∧
    (decode (addrWord 0xB nnn) = some (.jpV0 nnn) ∧
      ∃ t, exec (.jpV0 nnn) s = .next t ∧ t.pc.toNat = nnn.toNat + (s.getV 0).toNat ∧ SameExcept [.pc] s t)

/-- 41_control_flow.md R80: CALL pushes the advanced pc and jumps; with 16 entries it takes `StackOverflow`, pushes nothing
and leaves pc advanced. The report's word and address at `exec` are the model's (log 10); `CallBeyondDepthSixteenHalts` states
the exact report of a Step. -/
def Obligations.CallPushesAdvancedPc : Prop :=
  ∀ (nnn : Addr) (s : State), decode (addrWord 0x2 nnn) = some (.call nnn) ∧
    (∀ h : s.sp.val < 16, ∃ t, exec (.call nnn) s = .next t ∧ t.stack = s.stack.set s.sp.val s.pc ∧
      t.sp.val = s.sp.val + 1 ∧ t.pc.toNat = nnn.toNat ∧ SameExcept [.stack, .pc] s t) ∧
    (s.sp.val = 16 → ∃ t, exec (.call nnn) s = .next t ∧
      t.status = .halted .stackOverflow (addrWord 0x2 nnn) (s.pc - 2) ∧ SameExcept [.status] s t)

/-- 41_control_flow.md R81, R82, R83, R84: the skips compare registers and change nothing but pc. -/
def Obligations.SkipsCompareRegisters : Prop :=
  ∀ (x y : RegIdx) (kk : Byte) (s : State),
    (decode (byteWord 0x3 x kk) = some (.seImm x kk) ∧ ∃ t, exec (.seImm x kk) s = .next t ∧
      t.pc = (if s.getV x = kk then s.pc + 2 else s.pc) ∧ SameExcept [.pc] s t) ∧
    (decode (byteWord 0x4 x kk) = some (.sneImm x kk) ∧ ∃ t, exec (.sneImm x kk) s = .next t ∧
      t.pc = (if s.getV x ≠ kk then s.pc + 2 else s.pc) ∧ SameExcept [.pc] s t) ∧
    (decode (nibbleWord 0x5 x y 0) = some (.seReg x y) ∧ ∃ t, exec (.seReg x y) s = .next t ∧
      t.pc = (if s.getV x = s.getV y then s.pc + 2 else s.pc) ∧ SameExcept [.pc] s t) ∧
    (decode (nibbleWord 0x9 x y 0) = some (.sneReg x y) ∧ ∃ t, exec (.sneReg x y) s = .next t ∧
      t.pc = (if s.getV x ≠ s.getV y then s.pc + 2 else s.pc) ∧ SameExcept [.pc] s t)

/-- 95_test_vectors.md S5, 41_control_flow.md R78, R80: a RET after a CALL comes back to the address after the CALL, with the
depth as before. -/
def Obligations.RetUndoesCall : Prop :=
  ∀ (nnn : Addr) (s : State), s.sp.val < 16 →
    ∃ t u, exec (.call nnn) s = .next t ∧ exec .ret t = .next u ∧ u.pc = s.pc ∧ u.sp = s.sp ∧
      (∀ k : Fin 16, k.val < s.sp.val → u.stack[k.val] = s.stack[k.val]) ∧ SameExcept [.stack] s u

/-! Registers and arithmetic -/

/-- 42_alu.md R87, R88: the immediate forms. -/
def Obligations.ImmediateFormsWriteOneRegister : Prop :=
  ∀ (x : RegIdx) (kk : Byte) (s : State),
    (decode (byteWord 0x6 x kk) = some (.ldImm x kk) ∧ ∃ t, exec (.ldImm x kk) s = .next t ∧
      t.getV x = kk ∧ OnlyRegs [x] s t ∧ SameExcept [.regs] s t) ∧
    (decode (byteWord 0x7 x kk) = some (.addImm x kk) ∧ ∃ t, exec (.addImm x kk) s = .next t ∧
      (t.getV x).toNat = ((s.getV x).toNat + kk.toNat) % 256 ∧ OnlyRegs [x] s t ∧ SameExcept [.regs] s t)

/-- 42_alu.md R89, R90, R91, R92: copy and the bitwise forms, with no flag. -/
def Obligations.CopyAndBitwiseFormsSetNoFlag : Prop :=
  ∀ (x y : RegIdx) (s : State),
    (decode (nibbleWord 0x8 x y 0x0) = some (.ldReg x y) ∧ ∃ t, exec (.ldReg x y) s = .next t ∧
      t.getV x = s.getV y ∧ OnlyRegs [x] s t ∧ SameExcept [.regs] s t) ∧
    (decode (nibbleWord 0x8 x y 0x1) = some (.orReg x y) ∧ ∃ t, exec (.orReg x y) s = .next t ∧
      t.getV x = s.getV x ||| s.getV y ∧ OnlyRegs [x] s t ∧ SameExcept [.regs] s t) ∧
    (decode (nibbleWord 0x8 x y 0x2) = some (.andReg x y) ∧ ∃ t, exec (.andReg x y) s = .next t ∧
      t.getV x = s.getV x &&& s.getV y ∧ OnlyRegs [x] s t ∧ SameExcept [.regs] s t) ∧
    (decode (nibbleWord 0x8 x y 0x3) = some (.xorReg x y) ∧ ∃ t, exec (.xorReg x y) s = .next t ∧
      t.getV x = s.getV x ^^^ s.getV y ∧ OnlyRegs [x] s t ∧ SameExcept [.regs] s t)

/-- 42_alu.md R93: ADD Vx, Vy for every pair of registers, VF among them (40_execution_cycle.md R76). -/
def Obligations.AddRegistersSetsCarry : Prop :=
  ∀ (x y : RegIdx) (s : State), decode (nibbleWord 0x8 x y 0x4) = some (.addReg x y) ∧
    ∃ t, exec (.addReg x y) s = .next t ∧
      t.getV 0xF = (if (s.getV x).toNat + (s.getV y).toNat > 255 then 1 else 0) ∧
      (x ≠ 0xF → (t.getV x).toNat = ((s.getV x).toNat + (s.getV y).toNat) % 256) ∧
      OnlyRegs [x, 0xF] s t ∧ SameExcept [.regs] s t

/-- 42_alu.md R94, R96: SUB and SUBN for every pair of registers, VF among them. -/
def Obligations.SubtractionsSetNotBorrow : Prop :=
  ∀ (x y : RegIdx) (s : State),
    (decode (nibbleWord 0x8 x y 0x5) = some (.subReg x y) ∧ ∃ t, exec (.subReg x y) s = .next t ∧
      t.getV 0xF = (if (s.getV x).toNat ≥ (s.getV y).toNat then 1 else 0) ∧
      (x ≠ 0xF → ((t.getV x).toNat : Int) = ((s.getV x).toNat - (s.getV y).toNat : Int) % 256) ∧
      OnlyRegs [x, 0xF] s t ∧ SameExcept [.regs] s t) ∧
    (decode (nibbleWord 0x8 x y 0x7) = some (.subnReg x y) ∧ ∃ t, exec (.subnReg x y) s = .next t ∧
      t.getV 0xF = (if (s.getV y).toNat ≥ (s.getV x).toNat then 1 else 0) ∧
      (x ≠ 0xF → ((t.getV x).toNat : Int) = ((s.getV y).toNat - (s.getV x).toNat : Int) % 256) ∧
      OnlyRegs [x, 0xF] s t ∧ SameExcept [.regs] s t)

/-- 42_alu.md R95, R97: the shifts under both settings of `SHIFT_USES_VY`, for every pair of registers, VF among them. -/
def Obligations.ShiftsSetTheBitShiftedOut : Prop :=
  ∀ (x y : RegIdx) (s : State) (src : Byte), src = (if s.params.shiftUsesVy = true then s.getV y else s.getV x) →
    (decode (nibbleWord 0x8 x y 0x6) = some (.shr x y) ∧ ∃ t, exec (.shr x y) s = .next t ∧
      (t.getV 0xF).toNat = src.toNat % 2 ∧ (x ≠ 0xF → t.getV x = src >>> 1) ∧
      OnlyRegs [x, 0xF] s t ∧ SameExcept [.regs] s t) ∧
    (decode (nibbleWord 0x8 x y 0xE) = some (.shl x y) ∧ ∃ t, exec (.shl x y) s = .next t ∧
      (t.getV 0xF).toNat = src.toNat / 128 ∧ (x ≠ 0xF → t.getV x = src <<< 1) ∧
      OnlyRegs [x, 0xF] s t ∧ SameExcept [.regs] s t)

/-- 42_alu.md R98: RND masks the Step's `rnd`; every value whose set bits are a subset of `kk`'s can result. -/
def Obligations.RandomByteIsMaskedAndEveryMaskedValueOccurs : Prop :=
  ∀ (x : RegIdx) (kk : Byte) (s : State), decode (byteWord 0xC x kk) = some (.rnd x kk) ∧
    (∃ t, exec (.rnd x kk) s = .next t ∧ t.getV x = s.rnd &&& kk ∧ OnlyRegs [x] s t ∧ SameExcept [.regs] s t) ∧
    (∀ b : Byte, b &&& kk = b → ∃ r t, exec (.rnd x kk) { s with rnd := r } = .next t ∧ t.getV x = b)

/-- 40_execution_cycle.md, R74's "Only `RND Vx, kk` reads it; every other instruction ignores it": two runs of an
instruction that differ in `rnd` alone differ in it alone. -/
def Obligations.OnlyRndReadsTheRandomByte : Prop :=
  ∀ (i : Instr) (s : State) (r : Byte), (∀ x kk, i ≠ .rnd x kk) →
    ∃ t, exec i s = .next t ∧ exec i { s with rnd := r } = .next { t with rnd := r }

/-! Display -/

/-- 43_display.md R99: CLS clears every cell and sets `redraw`. -/
def Obligations.ClsClearsDisplay : Prop :=
  ∀ s : State, decode 0x00E0 = some .cls ∧
    ∃ t, exec .cls s = .next t ∧ (∀ c r, t.pix c r = false) ∧ t.redraw = true ∧ SameExcept [.display, .redraw] s t

/-- 43_display.md R100, R101, R102: DRW for every origin, row count, sprite and both settings of `DRAW_EDGE`: a cell is
flipped exactly where the sprite has a set bit on it, VF is 1 exactly where a flipped cell was set, and `redraw` is set. -/
def Obligations.DrawFlipsCoveredCells : Prop :=
  ∀ (x y : RegIdx) (n : BitVec 4) (s : State), decode (nibbleWord 0xD x y n) = some (.drw x y n) ∧
    ∃ t, exec (.drw x y n) s = .next t ∧
      (∀ c r, t.pix c r = (s.pix c r ^^ s.spriteCovers x y n c r)) ∧
      (t.getV 0xF = 0 ∨ t.getV 0xF = 1) ∧
      (t.getV 0xF = 1 ↔ ∃ c r, s.pix c r = true ∧ s.spriteCovers x y n c r = true) ∧
      t.redraw = true ∧ OnlyRegs [0xF] s t ∧ SameExcept [.regs, .display, .redraw] s t

/-- 95_test_vectors.md S6, D11: drawing the same sprite twice at the same origin restores the display, and the second draw
reports a collision exactly where the sprite has a set bit on some cell. -/
def Obligations.DrawingTwiceRestoresDisplay : Prop :=
  ∀ (x y : RegIdx) (n : BitVec 4) (s : State), x ≠ 0xF → y ≠ 0xF → (∀ c r, s.pix c r = false) →
    ∃ t u, exec (.drw x y n) s = .next t ∧ exec (.drw x y n) t = .next u ∧
      (∀ c r, u.pix c r = false) ∧ t.getV 0xF = 0 ∧
      (u.getV 0xF = 1 ↔ ∃ c r, s.spriteCovers x y n c r = true)

/-! Keypad and timers -/

/-- 44_keypad_timers.md R103, R104: SKP and SKNP test the key of the low nibble. -/
def Obligations.KeySkipsTestLowNibbleKey : Prop :=
  ∀ (x : RegIdx) (s : State) (k : RegIdx), k.val = (s.getV x).toNat % 16 →
    (decode (byteWord 0xE x 0x9E) = some (.skp x) ∧ ∃ t, exec (.skp x) s = .next t ∧
      t.pc = (if s.keyDown k = true then s.pc + 2 else s.pc) ∧ SameExcept [.pc] s t) ∧
    (decode (byteWord 0xE x 0xA1) = some (.sknp x) ∧ ∃ t, exec (.sknp x) s = .next t ∧
      t.pc = (if s.keyDown k = true then s.pc else s.pc + 2) ∧ SameExcept [.pc] s t)

/-- 44_keypad_timers.md R105: LD Vx, K takes the least key that is down; with no key down it rewinds pc by 2 and changes
nothing else. -/
def Obligations.KeyWaitTakesLeastKeyOrRewinds : Prop :=
  ∀ (x : RegIdx) (s : State), decode (byteWord 0xF x 0x0A) = some (.ldVxK x) ∧
    (∀ k : RegIdx, s.keyDown k = true → (∀ j : RegIdx, j < k → s.keyDown j = false) →
      ∃ t, exec (.ldVxK x) s = .next t ∧ (t.getV x).toNat = k.val ∧ OnlyRegs [x] s t ∧ SameExcept [.regs] s t) ∧
    ((∀ k : RegIdx, s.keyDown k = false) →
      ∃ t, exec (.ldVxK x) s = .next t ∧ t.pc = s.pc - 2 ∧ SameExcept [.pc] s t)

/-- 95_test_vectors.md S9, 44_keypad_timers.md R105: while no key is down, any number of Steps on `LD Vx, K` leaves the whole
state as it was (the `rnd` input apart, log 1). -/
def Obligations.KeyWaitRepeatsUntilKey : Prop :=
  ∀ (x : RegIdx) (s : State) (rnds : List Byte), s.status = .running → s.pc.toNat ≤ 0xFFE →
    decode (s.wordAt s.pc.toNat) = some (.ldVxK x) → (∀ k : RegIdx, s.keyDown k = false) →
    runOps .loaded s (rnds.map (fun r => .run (.step r))) = .next { s with rnd := rnds.getLast?.getD s.rnd }

/-- 44_keypad_timers.md R106, R107, R108, 10_state.md R36: the timer copies, and the output `sound_on`. -/
def Obligations.TimerCopies : Prop :=
  ∀ (x : RegIdx) (s : State),
    (decode (byteWord 0xF x 0x07) = some (.ldVxDt x) ∧ ∃ t, exec (.ldVxDt x) s = .next t ∧
      t.getV x = s.dt ∧ OnlyRegs [x] s t ∧ SameExcept [.regs] s t) ∧
    (decode (byteWord 0xF x 0x15) = some (.ldDtVx x) ∧ ∃ t, exec (.ldDtVx x) s = .next t ∧
      t.dt = s.getV x ∧ SameExcept [.delayTimer] s t) ∧
    (decode (byteWord 0xF x 0x18) = some (.ldStVx x) ∧ ∃ t, exec (.ldStVx x) s = .next t ∧
      t.st = s.getV x ∧ SameExcept [.soundTimer] s t) ∧
    (s.soundOn = true ↔ s.st ≠ 0)

/-- 60_exceptions.md R127, R128, R129, R130: Tick on a running core. Its `beep` result stands in the field `beep` (log 6). -/
def Obligations.TickCountsDownOnceAndBeeps : Prop :=
  ∀ (ns : Nat) (s : State), s.status = .running → ∃ t, tickOp ns s = .next t ∧
    (60 * ns ≥ 1000000000 → t.dt.toNat = s.dt.toNat - 1 ∧ t.st.toNat = s.st.toNat - 1 ∧
      (t.beep = true ↔ s.st = 1)) ∧
    (60 * ns < 1000000000 → t.dt = s.dt ∧ t.st = s.st ∧ t.beep = false) ∧
    t = { s with dt := t.dt, st := t.st, beep := t.beep }

/-! Index and memory -/

/-- 45_index_memory.md R109, R110, R111: the instructions that write I. -/
def Obligations.IndexWrites : Prop :=
  ∀ (x : RegIdx) (nnn : Addr) (s : State),
    (decode (addrWord 0xA nnn) = some (.ldI nnn) ∧ ∃ t, exec (.ldI nnn) s = .next t ∧
      t.i.toNat = nnn.toNat ∧ SameExcept [.index] s t) ∧
    (decode (byteWord 0xF x 0x1E) = some (.addI x) ∧ ∃ t, exec (.addI x) s = .next t ∧
      t.i.toNat = (s.i.toNat + (s.getV x).toNat) % 65536 ∧ SameExcept [.index] s t) ∧
    (decode (byteWord 0xF x 0x29) = some (.ldF x) ∧ ∃ t, exec (.ldF x) s = .next t ∧
      t.i.toNat = 0x050 + 5 * (s.getV x).toNat ∧ SameExcept [.index] s t)

/-- 45_index_memory.md R112: LD B stores the three decimal digits at `EA(I)`, `EA(I + 1)`, `EA(I + 2)` and changes no other
byte. The premise is the canonical form of memory, which every step keeps. -/
def Obligations.BcdStoresDecimalDigits : Prop :=
  ∀ (x : RegIdx) (s : State), Memory.wf s.params.font s.mem → decode (byteWord 0xF x 0x33) = some (.ldB x) ∧
    ∃ t, exec (.ldB x) s = .next t ∧
      (t.peek (ea (s.i.toNat + 0))).toNat = (s.getV x).toNat / 100 ∧
      (t.peek (ea (s.i.toNat + 1))).toNat = (s.getV x).toNat / 10 % 10 ∧
      (t.peek (ea (s.i.toNat + 2))).toNat = (s.getV x).toNat % 10 ∧
      OnlyBytes s.i.toNat 3 s t ∧ SameExcept [.memory] s t

/-- 45_index_memory.md R113: LD [I], Vx stores V0..Vx at `EA(I)`, ..., `EA(I + x)` and changes no other byte. -/
def Obligations.StoreRegistersWritesBytes : Prop :=
  ∀ (x : RegIdx) (s : State), Memory.wf s.params.font s.mem → decode (byteWord 0xF x 0x55) = some (.stRegs x) ∧
    ∃ t, exec (.stRegs x) s = .next t ∧
      (∀ j : RegIdx, j ≤ x → t.peek (ea (s.i.toNat + j.val)) = s.getV j) ∧
      OnlyBytes s.i.toNat (x.val + 1) s t ∧ SameExcept [.memory] s t

/-- 45_index_memory.md R114: LD Vx, [I] loads V0..Vx from `EA(I)`, ..., `EA(I + x)` and changes no other register. -/
def Obligations.LoadRegistersReadsBytes : Prop :=
  ∀ (x : RegIdx) (s : State), decode (byteWord 0xF x 0x65) = some (.ldRegs x) ∧
    ∃ t, exec (.ldRegs x) s = .next t ∧
      (∀ j : RegIdx, j ≤ x → t.getV j = s.peek (ea (s.i.toNat + j.val))) ∧
      (∀ j : RegIdx, x < j → t.getV j = s.getV j) ∧ SameExcept [.regs] s t

/-- 95_test_vectors.md S8: registers stored, changed in any way and loaded back from the same I are as they were, and I is
unchanged throughout. -/
def Obligations.StoreThenLoadRestoresRegisters : Prop :=
  ∀ (x : RegIdx) (s : State) (regs : Vector Byte 16), Memory.wf s.params.font s.mem →
    ∃ t u, exec (.stRegs x) s = .next t ∧ exec (.ldRegs x) { t with v := regs } = .next u ∧
      (∀ j : RegIdx, j ≤ x → u.getV j = s.getV j) ∧ t.i = s.i ∧ u.i = s.i

/-- 00_scope.md R10, 20_memory.md R42: `EA`, `MemRead` and `MemWrite`: a data access at any address reaches the byte at the
address modulo 4096, a read gives what was written, and no other byte changes. -/
def Obligations.DataAccessesWrapAndReadBack : Prop :=
  ∀ (s : State) (a b : Nat) (v : Byte), Memory.wf s.params.font s.mem →
    s.memRead a = s.peek (a % 4096) ∧
    (s.memWrite a v).memRead b = (if b % 4096 = a % 4096 then v else s.memRead b) ∧
    (∀ c, c ≠ a % 4096 → (s.memWrite a v).peek c = s.peek c) ∧ SameExcept [.memory] s (s.memWrite a v)

/-- 20_memory.md R52: the word a fetch takes from two stored bytes is made of them, at once: self-modifying code. -/
def Obligations.StoredBytesAreFetchedNext : Prop :=
  ∀ (x : RegIdx) (s : State) (j k : RegIdx) (p : Word), Memory.wf s.params.font s.mem → k ≤ x → k.val = j.val + 1 →
    p.toNat = ea (s.i.toNat + j.val) → p.toNat ≤ 0xFFE →
    ∃ t, exec (.stRegs x) s = .next t ∧
      (t.setPc p).fetchWord.toNat = (s.getV j).toNat * 256 + (s.getV k).toNat

/-- 20_memory.md, Address space: the canonical form is canonical: two memories that read the same at every address of the
space are the same list. -/
def Obligations.CanonicalMemoriesThatReadAlikeAreEqual : Prop :=
  ∀ (font : Vector Byte 80) (m m' : Memory), Memory.wf font m → Memory.wf font m' →
    (∀ a, a < 4096 → Memory.read font m a = Memory.read font m' a) → m = m'

/-! The whole machine -/

/-- 10_state.md, Access summary (R32's "written by" column), R16, R17: every instruction in every state answers a next state
and writes no part of the state and no register but those the table gives it. -/
def Obligations.EveryInstructionWritesOnlyItsParts : Prop :=
  ∀ (i : Instr) (s : State), ∃ t, exec i s = .next t ∧ SameExcept (instrWrites i) s t ∧ OnlyRegs (instrDests i) s t

/-- 10_state.md, Hidden state (R29) and R20, R22, R26: what no instruction reads (stale stack entries, ST, `redraw`, and the
model's beep and schedule) never influences what an instruction can read. -/
def Obligations.UnreadStateIsNeverSeen : Prop :=
  ∀ (i : Instr) (s t : State), ProgramView s t →
    ∃ s' t', exec i s = .next s' ∧ exec i t = .next t' ∧ ProgramView s' t'

/-- 00_scope.md R6, 92_eei_decisions.md D18: no operation of a run reads `CPU_HZ`. -/
def Obligations.NoOperationReadsCpuHz : Prop :=
  ∀ (s t : State) (hz : Nat), step s = .next t →
    step { s with params := { s.params with cpuHz := hz } } = .next { t with params := { t.params with cpuHz := hz } }

/-- The invariant holds right after reset (70_reset_and_hazards.md R137). -/
def Obligations.SafeStateAtReset : Prop := State.reset.Inv

/-- From every safe state, one operation of a run gives a safe state: memory canonical, pc at most 0x10FE and return addresses
at most 0x1000 (40_execution_cycle.md R69, 41_control_flow.md R78, R85), a report the machine can have made. -/
def Obligations.EveryStepKeepsSafeState : Prop :=
  ∀ s t : State, s.Inv → step s = .next t → t.Inv

/-- Reset gives a safe state from any state, and LoadRom keeps one (70_reset_and_hazards.md, Reset and boot). -/
def Obligations.ResetAndLoadRomKeepSafeState : Prop :=
  ∀ (s : State) (bytes : List Byte), s.resetCore.Inv ∧ (s.Inv → (s.loadRom bytes).Inv)

/-- 70_reset_and_hazards.md R152 (b): once the program has stopped at a JP to itself, every further Step leaves every field as
it is (the `rnd` input apart, log 1); under any operations of a run the program stays stopped there, and nothing but the
timers, the beep, the keys and `redraw` changes. -/
def Obligations.SelfJumpStopsTheProgram : Prop :=
  ∀ (s : State) (a : Addr), s.status = .running → s.StoppedAt a →
    (∀ rnd, stepOp rnd s = .next { s with rnd := rnd }) ∧
    (∀ ops : List RunOp, ∃ t, runOps .loaded s (ops.map .run) = .next t ∧ t.StoppedAt a ∧ t.RunEnded ∧
      t = { s with dt := t.dt, st := t.st, beep := t.beep, key := t.key, redraw := t.redraw, rnd := t.rnd })

/-! Host operations -/

/-- 10_state.md R33, 70_reset_and_hazards.md R137: Reset, in any status, sets every field to its reset value and keeps the
parameters (R28); State.reset is a fixed point of it. -/
def Obligations.ResetSetsEveryField : Prop :=
  State.reset.resetCore = State.reset ∧ ∀ s : State, ∃ t, applyOperation .reset s = .next t ∧
    (∀ j, t.getV j = 0) ∧ t.i = 0 ∧ t.pc = 0x200 ∧ t.sp.val = 0 ∧ (∀ k : Fin 16, t.stack[k.val] = 0) ∧
    t.dt = 0 ∧ t.st = 0 ∧ (∀ d : Fin 80, t.peek (0x050 + d.val) = s.params.font[d.val]) ∧
    (∀ a, a < 0x050 ∨ 0x0A0 ≤ a → t.peek a = 0) ∧ (∀ c r, t.pix c r = false) ∧ (∀ k, t.keyDown k = false) ∧
    t.redraw = false ∧ t.status = .running ∧ t.soundOn = false ∧ t.params = s.params

/-- 70_reset_and_hazards.md R139, R140, 60_exceptions.md R119: LoadRom copies the bytes to 0x200 and up and changes nothing
else; a ROM of more than 3584 bytes takes `RomTooLarge`, no byte is written and no Step can run. That Step's outcome there is
a fault with the report is the model's choice (log 4). -/
def Obligations.LoadRomCopiesOrRefusesTooLarge : Prop :=
  ∀ (s : State) (bytes : List Byte), Memory.wf s.params.font s.mem →
    ∃ t, applyOperation (.loadRom bytes) s = .next t ∧
    (bytes.length ≤ 3584 →
      (∀ (j : Nat) (h : j < bytes.length), t.peek (0x200 + j) = bytes[j]) ∧
      (∀ a, a < 0x200 ∨ 0x200 + bytes.length ≤ a → t.peek a = s.peek a) ∧ SameExcept [.memory] s t) ∧
    (3584 < bytes.length → t = { s with status := .halted .romTooLarge 0x0000 s.pc } ∧
      ∀ rnd, stepOp rnd t = .fault (.halted .romTooLarge 0x0000 s.pc))

/-- 70_reset_and_hazards.md R142, R143: SetKeypad and AckRedraw, in any status. -/
def Obligations.KeypadAndRedrawOperations : Prop :=
  ∀ (s : State) (keys : Vector Bool 16),
    (∃ t, runOp (.setKeypad keys) s = .next t ∧ (∀ k : RegIdx, t.keyDown k = keys[k.val]) ∧ t = { s with key := t.key }) ∧
    (∃ t, runOp .ackRedraw s = .next t ∧ t = { s with redraw := false })

/-- 70_reset_and_hazards.md R141: the order is Reset, then LoadRom, then any sequence of the other four, and nothing else is
admitted (10_state.md R35, R139). -/
def Obligations.OperationsComeInBootOrder : Prop :=
  ∀ (s : State) (bytes : List Byte) (ops : List RunOp),
    (∀ op rest, op ≠ .reset → runOps .uninitialised s (op :: rest) = .refused .coreNotReset) ∧
    (∀ op rest, runOps .resetDone s (.run op :: rest) = .refused .romNotLoaded) ∧
    (∀ rest, runOps .loaded s (.loadRom bytes :: rest) = .refused .loadRomNotAfterReset) ∧
    (∀ p, runOps p s (.reset :: .loadRom bytes :: ops.map .run) =
      runOps .loaded (s.resetCore.loadRom bytes) (ops.map .run)) ∧
    (∀ r, runOps .loaded s (ops.map .run) ≠ .refused r)

/-- 70_reset_and_hazards.md, What a model admits: stepping the machine through a schedule of operations is applying them one
after another (the schedule is the model's, log 2). -/
def Obligations.ScheduleRunsItsOperationsInOrder : Prop :=
  ∀ (ops : List RunOp) (s : State),
    Host.Core.run Sys2Proof.core ops.length { s with pending := ops } =
      runOps .loaded { s with pending := [] } (ops.map .run)

/-- The placing of an instruction (log 9): the next step of `withFetchWord` runs the instruction its word decodes to. -/
def Obligations.PlacedWordRunsNext : Prop :=
  ∀ (s : State) (w : Nat) (i : Instr), Memory.wf s.params.font s.mem → w < 65536 →
    decode (BitVec.ofNat 16 w) = some i →
    ∃ rnd, step (s.withFetchWord 16 w) =
      exec i { s.withFetchWord 16 w with
        draws := s.draws + 1, rnd := rnd, pc := (s.withFetchWord 16 w).pc + 2 }
end

