-- ==== Sys2Proof/Laws/Display.lean ====
section
/-!
SUPPORT. Drawing: the one cell a plot changes, and what it says of the collision (43_display.md R100, R101).
-/

namespace Sys2Proof.Machine

/-- Under `clip` a plot's target is the cell of the pixel where that is on the display (43_display.md R101). -/
theorem plotTarget_clip (px py : Nat) (p : Fin 2048) :
    plotTarget .clip px py = some p ↔ px < 64 ∧ py < 32 ∧ p.val = px + py * 64 := by
  by_cases h : px < 64 ∧ py < 32
  · simp only [plotTarget, h, dif_pos, and_self, Option.some.injEq, Fin.ext_iff, true_and]
    exact eq_comm
  · simp only [plotTarget, h, dif_neg, not_false_eq_true, reduceCtorEq, false_iff]
    omega

/-- Under `wrap` a plot's target is the cell of the reduced column and row (43_display.md R101). -/
theorem plotTarget_wrap (px py : Nat) (p : Fin 2048) :
    plotTarget .wrap px py = some p ↔ p.val = px % 64 + py % 32 * 64 := by
  simp only [plotTarget, Option.some.injEq, Fin.ext_iff]
  exact eq_comm

/-- The cells after a plot: its target flipped, every other cell as before. -/
theorem plot_cells (edge : DrawEdge) (px py : Nat) (cv : Canvas) (p : Fin 2048) :
    (plot edge px py cv).cells[p.val] = (cv.cells[p.val] ^^ decide (plotTarget edge px py = some p)) := by
  unfold plot
  split
  next h => simp [h]
  next q h =>
    simp only [h, Option.some.injEq, Vector.getElem_set, Fin.ext_iff]
    by_cases hq : q.val = p.val
    · simp [hq]
    · simp [hq]

/-- The collision after a plot: as before, or the target was set. -/
theorem plot_hit (edge : DrawEdge) (px py : Nat) (cv : Canvas) :
    (plot edge px py cv).hit = true ↔ cv.hit = true ∨ ∃ p, plotTarget edge px py = some p ∧ cv.cells[p.val] = true := by
  unfold plot
  split
  next h => simp [h]
  next q h => simp [h]

end Sys2Proof.Machine
end

