-- ==== Sys2Proof/Laws/Encoding.lean ====
section
/-!
SUPPORT. The fields of the words of each format (30_encoding.md R56, R58), for the encoder's words and for the words written
as sums; the two are the same words.
-/

namespace Sys2Proof.Machine

@[simp] theorem regOfNibble_nibbleOfReg (x : RegIdx) : regOfNibble (nibbleOfReg x) = x := by
  revert x; decide

@[simp] theorem nibbleOfReg_toNat (x : RegIdx) : (nibbleOfReg x).toNat = x.val := by
  revert x; decide

/-- Two words in one: a field as a quotient and a remainder. -/
theorem toNat_field (w : Word) (lo len : Nat) : (w.extractLsb' lo len).toNat = w.toNat / 2 ^ lo % 2 ^ len := by
  simp [BitVec.extractLsb'_toNat, Nat.shiftRight_eq_div_pow]

theorem toNat_concat {m n : Nat} (a : BitVec m) (b : BitVec n) : (a ++ b).toNat = a.toNat * 2 ^ n + b.toNat := by
  rw [BitVec.toNat_append, Nat.shiftLeft_eq, Nat.mul_comm, Nat.two_pow_add_eq_or_of_lt b.isLt]

theorem encNNN_eq_addrWord (g : BitVec 4) (nnn : Addr) : encNNN g nnn = addrWord g.toNat nnn := by
  apply BitVec.eq_of_toNat_eq
  have := g.isLt; have := nnn.isLt
  simp only [encNNN, addrWord, toNat_concat, BitVec.toNat_ofNat]
  omega

theorem encXKK_eq_byteWord (g : BitVec 4) (x : RegIdx) (kk : Byte) : encXKK g x kk = byteWord g.toNat x kk := by
  apply BitVec.eq_of_toNat_eq
  have := g.isLt; have := x.isLt; have := kk.isLt
  simp only [encXKK, byteWord, toNat_concat, BitVec.toNat_ofNat, nibbleOfReg_toNat]
  omega

theorem encXYN_eq_nibbleWord (g : BitVec 4) (x y : RegIdx) (n : BitVec 4) :
    encXYN g x y n = nibbleWord g.toNat x y n := by
  apply BitVec.eq_of_toNat_eq
  have := g.isLt; have := x.isLt; have := y.isLt; have := n.isLt
  simp only [encXYN, nibbleWord, toNat_concat, BitVec.toNat_ofNat, nibbleOfReg_toNat]
  omega

theorem regOfNibble_eq {b : BitVec 4} {x : RegIdx} (h : b.toNat = x.val) : regOfNibble b = x := Fin.ext h

/-- The fields of a word of format NNN. -/
theorem fields_addrWord {g : Nat} (hg : g < 16) (nnn : Addr) :
    (fields (addrWord g nnn)).group.toNat = g ∧ (fields (addrWord g nnn)).nnn = nnn := by
  have := nnn.isLt
  refine ⟨?_, BitVec.eq_of_toNat_eq ?_⟩ <;>
  · simp only [fields, addrWord, toNat_field, BitVec.toNat_ofNat]; omega

/-- The fields of a word of formats XKK and X. -/
theorem fields_byteWord {g : Nat} (hg : g < 16) (x : RegIdx) (kk : Byte) :
    (fields (byteWord g x kk)).group.toNat = g ∧ (fields (byteWord g x kk)).x = x ∧
      (fields (byteWord g x kk)).kk = kk := by
  have := x.isLt; have := kk.isLt
  refine ⟨?_, regOfNibble_eq ?_, BitVec.eq_of_toNat_eq ?_⟩ <;>
  · simp only [fields, byteWord, toNat_field, BitVec.toNat_ofNat]; omega

/-- The fields of a word of formats XY and XYN. -/
theorem fields_nibbleWord {g : Nat} (hg : g < 16) (x y : RegIdx) (n : BitVec 4) :
    (fields (nibbleWord g x y n)).group.toNat = g ∧ (fields (nibbleWord g x y n)).x = x ∧
      (fields (nibbleWord g x y n)).y = y ∧ (fields (nibbleWord g x y n)).n = n := by
  have := x.isLt; have := y.isLt; have := n.isLt
  refine ⟨?_, regOfNibble_eq ?_, regOfNibble_eq ?_, BitVec.eq_of_toNat_eq ?_⟩ <;>
  · simp only [fields, nibbleWord, toNat_field, BitVec.toNat_ofNat]; omega

/-- The word the fetch builds from two bytes is `hi * 256 + lo` (20_memory.md R43). -/
theorem wordOfBytes_toNat (hi lo : Byte) : (wordOfBytes hi lo).toNat = hi.toNat * 256 + lo.toNat := by
  simp only [wordOfBytes, toNat_concat]; omega

@[simp] theorem wordOfBytes_hi_lo (w : Word) : wordOfBytes (hiByte w) (loByte w) = w := by
  apply BitVec.eq_of_toNat_eq
  have := w.isLt
  simp only [wordOfBytes_toNat, hiByte, loByte, toNat_field]
  omega

/-- The word the fetch takes is the big-endian word at pc (20_memory.md R43). -/
theorem State.fetchWord_eq_wordAt (s : State) : s.fetchWord = s.wordAt s.pc.toNat := by
  apply BitVec.eq_of_toNat_eq
  have := (s.peek s.pc.toNat).isLt
  have := (s.peek (s.pc.toNat + 1)).isLt
  simp only [State.fetchWord, wordOfBytes_toNat, State.wordAt, BitVec.toNat_ofNat]
  omega

/-- Decoding a word of format NNN is dispatching on its group and address. -/
theorem decode_addrWord (g : BitVec 4) (nnn : Addr) :
    ∃ f, decode (addrWord g.toNat nnn) = decodeFields f ∧ f.group.toNat = g.toNat ∧ f.nnn = nnn :=
  ⟨_, rfl, fields_addrWord g.isLt nnn⟩

/-- Decoding a word of format XKK or X is dispatching on its group, register and low byte. -/
theorem decode_byteWord (g : BitVec 4) (x : RegIdx) (kk : Byte) :
    ∃ f, decode (byteWord g.toNat x kk) = decodeFields f ∧ f.group.toNat = g.toNat ∧ f.x = x ∧ f.kk = kk :=
  ⟨_, rfl, fields_byteWord g.isLt x kk⟩

/-- Decoding a word of format XY or XYN is dispatching on its group, registers and low nibble. -/
theorem decode_nibbleWord (g : BitVec 4) (x y : RegIdx) (n : BitVec 4) :
    ∃ f, decode (nibbleWord g.toNat x y n) = decodeFields f ∧ f.group.toNat = g.toNat ∧ f.x = x ∧ f.y = y ∧ f.n = n :=
  ⟨_, rfl, fields_nibbleWord g.isLt x y n⟩

end Sys2Proof.Machine
end

