-- ==== Sys2Proof/Laws/Memory.lean ====
section
/-!
SUPPORT. Memory: a read after a write, the bytes a copy leaves, and that every operation keeps the canonical form.
-/

namespace Sys2Proof.Machine

variable (font : Vector Byte 80)

/-- Data addresses stay in the address space (20_memory.md R37, R42). -/
theorem ea_lt (a : Nat) : ea a < Config.memSize := Nat.mod_lt _ (by decide)

/-- The bytes of one access lie at distinct addresses (20_memory.md R46). -/
theorem ea_add_inj {a j k : Nat} (hj : j < 4096) (hk : k < 4096) (h : ea (a + j) = ea (a + k)) : j = k := by
  simp only [ea, Config.memSize] at h
  omega

theorem Memory.read_cons (a : Nat) (b : Byte) (m : Memory) (a' : Nat) (hm : a' = a → Memory.read font m a = resetByte font a) :
    Memory.read font (Memory.cons font a b m) a' = if a' = a then b else Memory.read font m a' := by
  unfold Memory.cons
  split
  next hb =>
    split
    next h => subst h; rw [hm rfl, hb]
    next => rfl
  next =>
    by_cases h : a = a'
    · simp [Memory.read, h]
    · simp [Memory.read, h, Ne.symm h]

/-- An address below every listed one is not listed. -/
theorem Memory.read_of_lt (m : Memory) (a : Nat) (h : ∀ c ∈ m, a < c.1) :
    Memory.read font m a = resetByte font a := by
  induction m with
  | nil => rfl
  | cons c cs ih =>
    have hc := h c (by simp)
    rw [Memory.read, if_neg (by omega), ih (fun d hd => h d (by simp [hd]))]

/-- Reading after a write: the byte written at its address, every other address as before. -/
theorem Memory.read_write (m : Memory) (hm : m.Pairwise (fun c d => c.1 < d.1)) (a a' : Nat) (b : Byte) :
    Memory.read font (Memory.write font m a b) a' = if a' = a then b else Memory.read font m a' := by
  induction m with
  | nil => exact Memory.read_cons font a b [] a' (fun _ => rfl)
  | cons c cs ih =>
    obtain ⟨hc, hcs⟩ := List.pairwise_cons.1 hm
    unfold Memory.write
    split
    next hlt =>
      exact Memory.read_cons font a b (c :: cs) a' (fun _ => Memory.read_of_lt font _ a (by
        intro d hd
        rcases List.mem_cons.1 hd with rfl | hd
        · exact hlt
        · exact Nat.lt_trans hlt (hc d hd)))
    next hlt =>
      split
      next heq =>
        rw [Memory.read_cons font a b cs a' (fun _ => Memory.read_of_lt font _ a (by
          intro d hd; rw [← heq]; exact hc d hd))]
        by_cases h : a' = a
        · simp [h]
        · rw [if_neg h, if_neg h, Memory.read, if_neg (by rw [heq]; exact Ne.symm h)]
      next hne =>
        by_cases h : c.1 = a'
        · rw [Memory.read, if_pos h, if_neg (by omega), Memory.read, if_pos h]
        · rw [Memory.read, if_neg h, ih hcs, Memory.read, if_neg h]

/-- What a write lists was listed before, or is the written cell, and then not what the address reads as unlisted. -/
theorem Memory.mem_write {m : Memory} {a : Nat} {b : Byte} {c : Host.Cell} (h : c ∈ Memory.write font m a b) :
    c ∈ m ∨ (c = (a, b) ∧ b ≠ resetByte font a) := by
  induction m with
  | nil =>
    simp only [Memory.write, Memory.cons] at h
    split at h <;> simp_all
  | cons d ds ih =>
    simp only [Memory.write, Memory.cons] at h
    split at h
    · split at h
      next => exact .inl h
      next hb =>
        rcases List.mem_cons.1 h with rfl | h
        · exact .inr ⟨rfl, hb⟩
        · exact .inl h
    · split at h
      · split at h
        next => exact .inl (List.mem_cons_of_mem d h)
        next hb =>
          rcases List.mem_cons.1 h with rfl | h
          · exact .inr ⟨rfl, hb⟩
          · exact .inl (List.mem_cons_of_mem d h)
      · rcases List.mem_cons.1 h with rfl | h
        · simp
        · rcases ih h with h | h
          · simp [h]
          · exact .inr h

theorem Memory.write_sorted {m : Memory} (hm : m.Pairwise (fun c d => c.1 < d.1)) (a : Nat) (b : Byte) :
    (Memory.write font m a b).Pairwise (fun c d => c.1 < d.1) := by
  induction m with
  | nil => simp only [Memory.write, Memory.cons]; split <;> simp
  | cons c cs ih =>
    obtain ⟨hc, hcs⟩ := List.pairwise_cons.1 hm
    simp only [Memory.write, Memory.cons]
    split
    next hlt =>
      split
      · exact hm
      · refine List.pairwise_cons.2 ⟨fun d hd => ?_, hm⟩
        rcases List.mem_cons.1 hd with rfl | hd
        · exact hlt
        · exact Nat.lt_trans hlt (hc d hd)
    next hlt =>
      split
      next heq =>
        split
        · exact hcs
        · exact List.pairwise_cons.2 ⟨fun d hd => by simpa [← heq] using hc d hd, hcs⟩
      next hne =>
        refine List.pairwise_cons.2 ⟨fun d hd => ?_, ih hcs⟩
        rcases Memory.mem_write font hd with hd | ⟨rfl, -⟩
        · exact hc d hd
        · simp only; omega

/-- A write in the address space keeps the canonical form. -/
theorem Memory.write_wf {m : Memory} (hm : Memory.wf font m) {a : Nat} (ha : a < Config.memSize) (b : Byte) :
    Memory.wf font (Memory.write font m a b) := by
  refine ⟨Memory.write_sorted font hm.1 a b, fun c hc => ?_⟩
  rcases Memory.mem_write font hc with hc | ⟨rfl, hb⟩
  · exact hm.2 c hc
  · exact ⟨ha, hb⟩

/-- A copy that stays in the address space keeps the canonical form (70_reset_and_hazards.md R139). -/
theorem Memory.copy_wf {m : Memory} (hm : Memory.wf font m) (bytes : List Byte) (a : Nat)
    (h : a + bytes.length ≤ Config.memSize) : Memory.wf font (Memory.copy font m a bytes) := by
  induction bytes generalizing a with
  | nil => exact hm
  | cons b bs ih =>
    simp only [List.length_cons] at h
    exact Memory.write_wf font (ih (a + 1) (by omega)) (by omega) b

theorem Memory.copy_sorted {m : Memory} (hm : m.Pairwise (fun c d => c.1 < d.1)) (bytes : List Byte) (a : Nat) :
    (Memory.copy font m a bytes).Pairwise (fun c d => c.1 < d.1) := by
  induction bytes generalizing a with
  | nil => exact hm
  | cons b bs ih => exact Memory.write_sorted font (ih (a + 1)) a b

theorem Memory.wf_nil : Memory.wf font [] := ⟨List.Pairwise.nil, by simp⟩

end Sys2Proof.Machine
end

