-- ==== Sys2Proof/Laws/State.lean ====
section
/-!
SUPPORT. The fields of every update of State, true by unfolding, so that no later proof unfolds a record update.
-/

namespace Sys2Proof.Machine

section setV
variable (s : State) (x : RegIdx) (b : Byte)
@[simp] theorem State.setV_v : (s.setV x b).v = s.v.set x.val b := rfl
@[simp] theorem State.setV_i : (s.setV x b).i = s.i := rfl
@[simp] theorem State.setV_pc : (s.setV x b).pc = s.pc := rfl
@[simp] theorem State.setV_stack : (s.setV x b).stack = s.stack := rfl
@[simp] theorem State.setV_sp : (s.setV x b).sp = s.sp := rfl
@[simp] theorem State.setV_dt : (s.setV x b).dt = s.dt := rfl
@[simp] theorem State.setV_st : (s.setV x b).st = s.st := rfl
@[simp] theorem State.setV_mem : (s.setV x b).mem = s.mem := rfl
@[simp] theorem State.setV_display : (s.setV x b).display = s.display := rfl
@[simp] theorem State.setV_key : (s.setV x b).key = s.key := rfl
@[simp] theorem State.setV_redraw : (s.setV x b).redraw = s.redraw := rfl
@[simp] theorem State.setV_status : (s.setV x b).status = s.status := rfl
@[simp] theorem State.setV_beep : (s.setV x b).beep = s.beep := rfl
@[simp] theorem State.setV_rnd : (s.setV x b).rnd = s.rnd := rfl
@[simp] theorem State.setV_draws : (s.setV x b).draws = s.draws := rfl
@[simp] theorem State.setV_pending : (s.setV x b).pending = s.pending := rfl
@[simp] theorem State.setV_params : (s.setV x b).params = s.params := rfl
end setV

section setVFlag
variable (s : State) (x : RegIdx) (b f : Byte)
@[simp] theorem State.setVFlag_v : (s.setVFlag x b f).v = (s.v.set x.val b).set vf.val f := rfl
@[simp] theorem State.setVFlag_i : (s.setVFlag x b f).i = s.i := rfl
@[simp] theorem State.setVFlag_pc : (s.setVFlag x b f).pc = s.pc := rfl
@[simp] theorem State.setVFlag_stack : (s.setVFlag x b f).stack = s.stack := rfl
@[simp] theorem State.setVFlag_sp : (s.setVFlag x b f).sp = s.sp := rfl
@[simp] theorem State.setVFlag_dt : (s.setVFlag x b f).dt = s.dt := rfl
@[simp] theorem State.setVFlag_st : (s.setVFlag x b f).st = s.st := rfl
@[simp] theorem State.setVFlag_mem : (s.setVFlag x b f).mem = s.mem := rfl
@[simp] theorem State.setVFlag_display : (s.setVFlag x b f).display = s.display := rfl
@[simp] theorem State.setVFlag_key : (s.setVFlag x b f).key = s.key := rfl
@[simp] theorem State.setVFlag_redraw : (s.setVFlag x b f).redraw = s.redraw := rfl
@[simp] theorem State.setVFlag_status : (s.setVFlag x b f).status = s.status := rfl
@[simp] theorem State.setVFlag_beep : (s.setVFlag x b f).beep = s.beep := rfl
@[simp] theorem State.setVFlag_rnd : (s.setVFlag x b f).rnd = s.rnd := rfl
@[simp] theorem State.setVFlag_draws : (s.setVFlag x b f).draws = s.draws := rfl
@[simp] theorem State.setVFlag_pending : (s.setVFlag x b f).pending = s.pending := rfl
@[simp] theorem State.setVFlag_params : (s.setVFlag x b f).params = s.params := rfl
end setVFlag

section setI
variable (s : State) (w : Word)
@[simp] theorem State.setI_v : (s.setI w).v = s.v := rfl
@[simp] theorem State.setI_i : (s.setI w).i = w := rfl
@[simp] theorem State.setI_pc : (s.setI w).pc = s.pc := rfl
@[simp] theorem State.setI_stack : (s.setI w).stack = s.stack := rfl
@[simp] theorem State.setI_sp : (s.setI w).sp = s.sp := rfl
@[simp] theorem State.setI_dt : (s.setI w).dt = s.dt := rfl
@[simp] theorem State.setI_st : (s.setI w).st = s.st := rfl
@[simp] theorem State.setI_mem : (s.setI w).mem = s.mem := rfl
@[simp] theorem State.setI_display : (s.setI w).display = s.display := rfl
@[simp] theorem State.setI_key : (s.setI w).key = s.key := rfl
@[simp] theorem State.setI_redraw : (s.setI w).redraw = s.redraw := rfl
@[simp] theorem State.setI_status : (s.setI w).status = s.status := rfl
@[simp] theorem State.setI_beep : (s.setI w).beep = s.beep := rfl
@[simp] theorem State.setI_rnd : (s.setI w).rnd = s.rnd := rfl
@[simp] theorem State.setI_draws : (s.setI w).draws = s.draws := rfl
@[simp] theorem State.setI_pending : (s.setI w).pending = s.pending := rfl
@[simp] theorem State.setI_params : (s.setI w).params = s.params := rfl
end setI

section setPc
variable (s : State) (w : Word)
@[simp] theorem State.setPc_v : (s.setPc w).v = s.v := rfl
@[simp] theorem State.setPc_i : (s.setPc w).i = s.i := rfl
@[simp] theorem State.setPc_pc : (s.setPc w).pc = w := rfl
@[simp] theorem State.setPc_stack : (s.setPc w).stack = s.stack := rfl
@[simp] theorem State.setPc_sp : (s.setPc w).sp = s.sp := rfl
@[simp] theorem State.setPc_dt : (s.setPc w).dt = s.dt := rfl
@[simp] theorem State.setPc_st : (s.setPc w).st = s.st := rfl
@[simp] theorem State.setPc_mem : (s.setPc w).mem = s.mem := rfl
@[simp] theorem State.setPc_display : (s.setPc w).display = s.display := rfl
@[simp] theorem State.setPc_key : (s.setPc w).key = s.key := rfl
@[simp] theorem State.setPc_redraw : (s.setPc w).redraw = s.redraw := rfl
@[simp] theorem State.setPc_status : (s.setPc w).status = s.status := rfl
@[simp] theorem State.setPc_beep : (s.setPc w).beep = s.beep := rfl
@[simp] theorem State.setPc_rnd : (s.setPc w).rnd = s.rnd := rfl
@[simp] theorem State.setPc_draws : (s.setPc w).draws = s.draws := rfl
@[simp] theorem State.setPc_pending : (s.setPc w).pending = s.pending := rfl
@[simp] theorem State.setPc_params : (s.setPc w).params = s.params := rfl
end setPc

section advance
variable (s : State)
@[simp] theorem State.advance_v : (s.advance).v = s.v := rfl
@[simp] theorem State.advance_i : (s.advance).i = s.i := rfl
@[simp] theorem State.advance_pc : (s.advance).pc = s.pc + 2 := rfl
@[simp] theorem State.advance_stack : (s.advance).stack = s.stack := rfl
@[simp] theorem State.advance_sp : (s.advance).sp = s.sp := rfl
@[simp] theorem State.advance_dt : (s.advance).dt = s.dt := rfl
@[simp] theorem State.advance_st : (s.advance).st = s.st := rfl
@[simp] theorem State.advance_mem : (s.advance).mem = s.mem := rfl
@[simp] theorem State.advance_display : (s.advance).display = s.display := rfl
@[simp] theorem State.advance_key : (s.advance).key = s.key := rfl
@[simp] theorem State.advance_redraw : (s.advance).redraw = s.redraw := rfl
@[simp] theorem State.advance_status : (s.advance).status = s.status := rfl
@[simp] theorem State.advance_beep : (s.advance).beep = s.beep := rfl
@[simp] theorem State.advance_rnd : (s.advance).rnd = s.rnd := rfl
@[simp] theorem State.advance_draws : (s.advance).draws = s.draws := rfl
@[simp] theorem State.advance_pending : (s.advance).pending = s.pending := rfl
@[simp] theorem State.advance_params : (s.advance).params = s.params := rfl
end advance

section rewind
variable (s : State)
@[simp] theorem State.rewind_v : (s.rewind).v = s.v := rfl
@[simp] theorem State.rewind_i : (s.rewind).i = s.i := rfl
@[simp] theorem State.rewind_pc : (s.rewind).pc = s.pc - 2 := rfl
@[simp] theorem State.rewind_stack : (s.rewind).stack = s.stack := rfl
@[simp] theorem State.rewind_sp : (s.rewind).sp = s.sp := rfl
@[simp] theorem State.rewind_dt : (s.rewind).dt = s.dt := rfl
@[simp] theorem State.rewind_st : (s.rewind).st = s.st := rfl
@[simp] theorem State.rewind_mem : (s.rewind).mem = s.mem := rfl
@[simp] theorem State.rewind_display : (s.rewind).display = s.display := rfl
@[simp] theorem State.rewind_key : (s.rewind).key = s.key := rfl
@[simp] theorem State.rewind_redraw : (s.rewind).redraw = s.redraw := rfl
@[simp] theorem State.rewind_status : (s.rewind).status = s.status := rfl
@[simp] theorem State.rewind_beep : (s.rewind).beep = s.beep := rfl
@[simp] theorem State.rewind_rnd : (s.rewind).rnd = s.rnd := rfl
@[simp] theorem State.rewind_draws : (s.rewind).draws = s.draws := rfl
@[simp] theorem State.rewind_pending : (s.rewind).pending = s.pending := rfl
@[simp] theorem State.rewind_params : (s.rewind).params = s.params := rfl
end rewind

section setDt
variable (s : State) (b : Byte)
@[simp] theorem State.setDt_v : (s.setDt b).v = s.v := rfl
@[simp] theorem State.setDt_i : (s.setDt b).i = s.i := rfl
@[simp] theorem State.setDt_pc : (s.setDt b).pc = s.pc := rfl
@[simp] theorem State.setDt_stack : (s.setDt b).stack = s.stack := rfl
@[simp] theorem State.setDt_sp : (s.setDt b).sp = s.sp := rfl
@[simp] theorem State.setDt_dt : (s.setDt b).dt = b := rfl
@[simp] theorem State.setDt_st : (s.setDt b).st = s.st := rfl
@[simp] theorem State.setDt_mem : (s.setDt b).mem = s.mem := rfl
@[simp] theorem State.setDt_display : (s.setDt b).display = s.display := rfl
@[simp] theorem State.setDt_key : (s.setDt b).key = s.key := rfl
@[simp] theorem State.setDt_redraw : (s.setDt b).redraw = s.redraw := rfl
@[simp] theorem State.setDt_status : (s.setDt b).status = s.status := rfl
@[simp] theorem State.setDt_beep : (s.setDt b).beep = s.beep := rfl
@[simp] theorem State.setDt_rnd : (s.setDt b).rnd = s.rnd := rfl
@[simp] theorem State.setDt_draws : (s.setDt b).draws = s.draws := rfl
@[simp] theorem State.setDt_pending : (s.setDt b).pending = s.pending := rfl
@[simp] theorem State.setDt_params : (s.setDt b).params = s.params := rfl
end setDt

section setSt
variable (s : State) (b : Byte)
@[simp] theorem State.setSt_v : (s.setSt b).v = s.v := rfl
@[simp] theorem State.setSt_i : (s.setSt b).i = s.i := rfl
@[simp] theorem State.setSt_pc : (s.setSt b).pc = s.pc := rfl
@[simp] theorem State.setSt_stack : (s.setSt b).stack = s.stack := rfl
@[simp] theorem State.setSt_sp : (s.setSt b).sp = s.sp := rfl
@[simp] theorem State.setSt_dt : (s.setSt b).dt = s.dt := rfl
@[simp] theorem State.setSt_st : (s.setSt b).st = b := rfl
@[simp] theorem State.setSt_mem : (s.setSt b).mem = s.mem := rfl
@[simp] theorem State.setSt_display : (s.setSt b).display = s.display := rfl
@[simp] theorem State.setSt_key : (s.setSt b).key = s.key := rfl
@[simp] theorem State.setSt_redraw : (s.setSt b).redraw = s.redraw := rfl
@[simp] theorem State.setSt_status : (s.setSt b).status = s.status := rfl
@[simp] theorem State.setSt_beep : (s.setSt b).beep = s.beep := rfl
@[simp] theorem State.setSt_rnd : (s.setSt b).rnd = s.rnd := rfl
@[simp] theorem State.setSt_draws : (s.setSt b).draws = s.draws := rfl
@[simp] theorem State.setSt_pending : (s.setSt b).pending = s.pending := rfl
@[simp] theorem State.setSt_params : (s.setSt b).params = s.params := rfl
end setSt

section poke
variable (s : State) (a : Nat) (b : Byte)
@[simp] theorem State.poke_v : (s.poke a b).v = s.v := rfl
@[simp] theorem State.poke_i : (s.poke a b).i = s.i := rfl
@[simp] theorem State.poke_pc : (s.poke a b).pc = s.pc := rfl
@[simp] theorem State.poke_stack : (s.poke a b).stack = s.stack := rfl
@[simp] theorem State.poke_sp : (s.poke a b).sp = s.sp := rfl
@[simp] theorem State.poke_dt : (s.poke a b).dt = s.dt := rfl
@[simp] theorem State.poke_st : (s.poke a b).st = s.st := rfl
@[simp] theorem State.poke_mem : (s.poke a b).mem = Memory.write s.params.font s.mem a b := rfl
@[simp] theorem State.poke_display : (s.poke a b).display = s.display := rfl
@[simp] theorem State.poke_key : (s.poke a b).key = s.key := rfl
@[simp] theorem State.poke_redraw : (s.poke a b).redraw = s.redraw := rfl
@[simp] theorem State.poke_status : (s.poke a b).status = s.status := rfl
@[simp] theorem State.poke_beep : (s.poke a b).beep = s.beep := rfl
@[simp] theorem State.poke_rnd : (s.poke a b).rnd = s.rnd := rfl
@[simp] theorem State.poke_draws : (s.poke a b).draws = s.draws := rfl
@[simp] theorem State.poke_pending : (s.poke a b).pending = s.pending := rfl
@[simp] theorem State.poke_params : (s.poke a b).params = s.params := rfl
end poke

section memWrite
variable (s : State) (a : Nat) (b : Byte)
@[simp] theorem State.memWrite_v : (s.memWrite a b).v = s.v := rfl
@[simp] theorem State.memWrite_i : (s.memWrite a b).i = s.i := rfl
@[simp] theorem State.memWrite_pc : (s.memWrite a b).pc = s.pc := rfl
@[simp] theorem State.memWrite_stack : (s.memWrite a b).stack = s.stack := rfl
@[simp] theorem State.memWrite_sp : (s.memWrite a b).sp = s.sp := rfl
@[simp] theorem State.memWrite_dt : (s.memWrite a b).dt = s.dt := rfl
@[simp] theorem State.memWrite_st : (s.memWrite a b).st = s.st := rfl
@[simp] theorem State.memWrite_mem : (s.memWrite a b).mem = Memory.write s.params.font s.mem (ea a) b := rfl
@[simp] theorem State.memWrite_display : (s.memWrite a b).display = s.display := rfl
@[simp] theorem State.memWrite_key : (s.memWrite a b).key = s.key := rfl
@[simp] theorem State.memWrite_redraw : (s.memWrite a b).redraw = s.redraw := rfl
@[simp] theorem State.memWrite_status : (s.memWrite a b).status = s.status := rfl
@[simp] theorem State.memWrite_beep : (s.memWrite a b).beep = s.beep := rfl
@[simp] theorem State.memWrite_rnd : (s.memWrite a b).rnd = s.rnd := rfl
@[simp] theorem State.memWrite_draws : (s.memWrite a b).draws = s.draws := rfl
@[simp] theorem State.memWrite_pending : (s.memWrite a b).pending = s.pending := rfl
@[simp] theorem State.memWrite_params : (s.memWrite a b).params = s.params := rfl
end memWrite

section showDisplay
variable (s : State) (d : Vector Bool 2048)
@[simp] theorem State.showDisplay_v : (s.showDisplay d).v = s.v := rfl
@[simp] theorem State.showDisplay_i : (s.showDisplay d).i = s.i := rfl
@[simp] theorem State.showDisplay_pc : (s.showDisplay d).pc = s.pc := rfl
@[simp] theorem State.showDisplay_stack : (s.showDisplay d).stack = s.stack := rfl
@[simp] theorem State.showDisplay_sp : (s.showDisplay d).sp = s.sp := rfl
@[simp] theorem State.showDisplay_dt : (s.showDisplay d).dt = s.dt := rfl
@[simp] theorem State.showDisplay_st : (s.showDisplay d).st = s.st := rfl
@[simp] theorem State.showDisplay_mem : (s.showDisplay d).mem = s.mem := rfl
@[simp] theorem State.showDisplay_display : (s.showDisplay d).display = d := rfl
@[simp] theorem State.showDisplay_key : (s.showDisplay d).key = s.key := rfl
@[simp] theorem State.showDisplay_redraw : (s.showDisplay d).redraw = true := rfl
@[simp] theorem State.showDisplay_status : (s.showDisplay d).status = s.status := rfl
@[simp] theorem State.showDisplay_beep : (s.showDisplay d).beep = s.beep := rfl
@[simp] theorem State.showDisplay_rnd : (s.showDisplay d).rnd = s.rnd := rfl
@[simp] theorem State.showDisplay_draws : (s.showDisplay d).draws = s.draws := rfl
@[simp] theorem State.showDisplay_pending : (s.showDisplay d).pending = s.pending := rfl
@[simp] theorem State.showDisplay_params : (s.showDisplay d).params = s.params := rfl
end showDisplay

section raiseFault
variable (s : State) (c : FaultCode) (w p : Word)
@[simp] theorem State.raiseFault_v : (s.raiseFault c w p).v = s.v := rfl
@[simp] theorem State.raiseFault_i : (s.raiseFault c w p).i = s.i := rfl
@[simp] theorem State.raiseFault_pc : (s.raiseFault c w p).pc = s.pc := rfl
@[simp] theorem State.raiseFault_stack : (s.raiseFault c w p).stack = s.stack := rfl
@[simp] theorem State.raiseFault_sp : (s.raiseFault c w p).sp = s.sp := rfl
@[simp] theorem State.raiseFault_dt : (s.raiseFault c w p).dt = s.dt := rfl
@[simp] theorem State.raiseFault_st : (s.raiseFault c w p).st = s.st := rfl
@[simp] theorem State.raiseFault_mem : (s.raiseFault c w p).mem = s.mem := rfl
@[simp] theorem State.raiseFault_display : (s.raiseFault c w p).display = s.display := rfl
@[simp] theorem State.raiseFault_key : (s.raiseFault c w p).key = s.key := rfl
@[simp] theorem State.raiseFault_redraw : (s.raiseFault c w p).redraw = s.redraw := rfl
@[simp] theorem State.raiseFault_status : (s.raiseFault c w p).status = .halted c w p := rfl
@[simp] theorem State.raiseFault_beep : (s.raiseFault c w p).beep = s.beep := rfl
@[simp] theorem State.raiseFault_rnd : (s.raiseFault c w p).rnd = s.rnd := rfl
@[simp] theorem State.raiseFault_draws : (s.raiseFault c w p).draws = s.draws := rfl
@[simp] theorem State.raiseFault_pending : (s.raiseFault c w p).pending = s.pending := rfl
@[simp] theorem State.raiseFault_params : (s.raiseFault c w p).params = s.params := rfl
end raiseFault

section beginInstr
variable (s : State) (r : Byte)
@[simp] theorem State.beginInstr_v : (s.beginInstr r).v = s.v := rfl
@[simp] theorem State.beginInstr_i : (s.beginInstr r).i = s.i := rfl
@[simp] theorem State.beginInstr_pc : (s.beginInstr r).pc = s.pc + 2 := rfl
@[simp] theorem State.beginInstr_stack : (s.beginInstr r).stack = s.stack := rfl
@[simp] theorem State.beginInstr_sp : (s.beginInstr r).sp = s.sp := rfl
@[simp] theorem State.beginInstr_dt : (s.beginInstr r).dt = s.dt := rfl
@[simp] theorem State.beginInstr_st : (s.beginInstr r).st = s.st := rfl
@[simp] theorem State.beginInstr_mem : (s.beginInstr r).mem = s.mem := rfl
@[simp] theorem State.beginInstr_display : (s.beginInstr r).display = s.display := rfl
@[simp] theorem State.beginInstr_key : (s.beginInstr r).key = s.key := rfl
@[simp] theorem State.beginInstr_redraw : (s.beginInstr r).redraw = s.redraw := rfl
@[simp] theorem State.beginInstr_status : (s.beginInstr r).status = s.status := rfl
@[simp] theorem State.beginInstr_beep : (s.beginInstr r).beep = s.beep := rfl
@[simp] theorem State.beginInstr_rnd : (s.beginInstr r).rnd = r := rfl
@[simp] theorem State.beginInstr_draws : (s.beginInstr r).draws = s.draws := rfl
@[simp] theorem State.beginInstr_pending : (s.beginInstr r).pending = s.pending := rfl
@[simp] theorem State.beginInstr_params : (s.beginInstr r).params = s.params := rfl
end beginInstr

section setKeypad
variable (s : State) (k : Vector Bool 16)
@[simp] theorem State.setKeypad_v : (s.setKeypad k).v = s.v := rfl
@[simp] theorem State.setKeypad_i : (s.setKeypad k).i = s.i := rfl
@[simp] theorem State.setKeypad_pc : (s.setKeypad k).pc = s.pc := rfl
@[simp] theorem State.setKeypad_stack : (s.setKeypad k).stack = s.stack := rfl
@[simp] theorem State.setKeypad_sp : (s.setKeypad k).sp = s.sp := rfl
@[simp] theorem State.setKeypad_dt : (s.setKeypad k).dt = s.dt := rfl
@[simp] theorem State.setKeypad_st : (s.setKeypad k).st = s.st := rfl
@[simp] theorem State.setKeypad_mem : (s.setKeypad k).mem = s.mem := rfl
@[simp] theorem State.setKeypad_display : (s.setKeypad k).display = s.display := rfl
@[simp] theorem State.setKeypad_key : (s.setKeypad k).key = k := rfl
@[simp] theorem State.setKeypad_redraw : (s.setKeypad k).redraw = s.redraw := rfl
@[simp] theorem State.setKeypad_status : (s.setKeypad k).status = s.status := rfl
@[simp] theorem State.setKeypad_beep : (s.setKeypad k).beep = s.beep := rfl
@[simp] theorem State.setKeypad_rnd : (s.setKeypad k).rnd = s.rnd := rfl
@[simp] theorem State.setKeypad_draws : (s.setKeypad k).draws = s.draws := rfl
@[simp] theorem State.setKeypad_pending : (s.setKeypad k).pending = s.pending := rfl
@[simp] theorem State.setKeypad_params : (s.setKeypad k).params = s.params := rfl
end setKeypad

section ackRedraw
variable (s : State)
@[simp] theorem State.ackRedraw_v : (s.ackRedraw).v = s.v := rfl
@[simp] theorem State.ackRedraw_i : (s.ackRedraw).i = s.i := rfl
@[simp] theorem State.ackRedraw_pc : (s.ackRedraw).pc = s.pc := rfl
@[simp] theorem State.ackRedraw_stack : (s.ackRedraw).stack = s.stack := rfl
@[simp] theorem State.ackRedraw_sp : (s.ackRedraw).sp = s.sp := rfl
@[simp] theorem State.ackRedraw_dt : (s.ackRedraw).dt = s.dt := rfl
@[simp] theorem State.ackRedraw_st : (s.ackRedraw).st = s.st := rfl
@[simp] theorem State.ackRedraw_mem : (s.ackRedraw).mem = s.mem := rfl
@[simp] theorem State.ackRedraw_display : (s.ackRedraw).display = s.display := rfl
@[simp] theorem State.ackRedraw_key : (s.ackRedraw).key = s.key := rfl
@[simp] theorem State.ackRedraw_redraw : (s.ackRedraw).redraw = false := rfl
@[simp] theorem State.ackRedraw_status : (s.ackRedraw).status = s.status := rfl
@[simp] theorem State.ackRedraw_beep : (s.ackRedraw).beep = s.beep := rfl
@[simp] theorem State.ackRedraw_rnd : (s.ackRedraw).rnd = s.rnd := rfl
@[simp] theorem State.ackRedraw_draws : (s.ackRedraw).draws = s.draws := rfl
@[simp] theorem State.ackRedraw_pending : (s.ackRedraw).pending = s.pending := rfl
@[simp] theorem State.ackRedraw_params : (s.ackRedraw).params = s.params := rfl
end ackRedraw

section skipIf
variable (s : State) (c : Bool)
@[simp] theorem State.skipIf_v : (s.skipIf c).v = s.v := by cases c <;> rfl
@[simp] theorem State.skipIf_i : (s.skipIf c).i = s.i := by cases c <;> rfl
@[simp] theorem State.skipIf_pc : (s.skipIf c).pc = (if c then s.pc + 2 else s.pc) := by cases c <;> rfl
@[simp] theorem State.skipIf_stack : (s.skipIf c).stack = s.stack := by cases c <;> rfl
@[simp] theorem State.skipIf_sp : (s.skipIf c).sp = s.sp := by cases c <;> rfl
@[simp] theorem State.skipIf_dt : (s.skipIf c).dt = s.dt := by cases c <;> rfl
@[simp] theorem State.skipIf_st : (s.skipIf c).st = s.st := by cases c <;> rfl
@[simp] theorem State.skipIf_mem : (s.skipIf c).mem = s.mem := by cases c <;> rfl
@[simp] theorem State.skipIf_display : (s.skipIf c).display = s.display := by cases c <;> rfl
@[simp] theorem State.skipIf_key : (s.skipIf c).key = s.key := by cases c <;> rfl
@[simp] theorem State.skipIf_redraw : (s.skipIf c).redraw = s.redraw := by cases c <;> rfl
@[simp] theorem State.skipIf_status : (s.skipIf c).status = s.status := by cases c <;> rfl
@[simp] theorem State.skipIf_beep : (s.skipIf c).beep = s.beep := by cases c <;> rfl
@[simp] theorem State.skipIf_rnd : (s.skipIf c).rnd = s.rnd := by cases c <;> rfl
@[simp] theorem State.skipIf_draws : (s.skipIf c).draws = s.draws := by cases c <;> rfl
@[simp] theorem State.skipIf_pending : (s.skipIf c).pending = s.pending := by cases c <;> rfl
@[simp] theorem State.skipIf_params : (s.skipIf c).params = s.params := by cases c <;> rfl
end skipIf

section storeBytes
@[simp] theorem State.storeBytes_v (s : State) (a : Nat) (l : List Byte) : (s.storeBytes a l).v = s.v := by
  induction l generalizing s a with
  | nil => rfl
  | cons b bs ih => simp [State.storeBytes, ih]
@[simp] theorem State.storeBytes_i (s : State) (a : Nat) (l : List Byte) : (s.storeBytes a l).i = s.i := by
  induction l generalizing s a with
  | nil => rfl
  | cons b bs ih => simp [State.storeBytes, ih]
@[simp] theorem State.storeBytes_pc (s : State) (a : Nat) (l : List Byte) : (s.storeBytes a l).pc = s.pc := by
  induction l generalizing s a with
  | nil => rfl
  | cons b bs ih => simp [State.storeBytes, ih]
@[simp] theorem State.storeBytes_stack (s : State) (a : Nat) (l : List Byte) : (s.storeBytes a l).stack = s.stack := by
  induction l generalizing s a with
  | nil => rfl
  | cons b bs ih => simp [State.storeBytes, ih]
@[simp] theorem State.storeBytes_sp (s : State) (a : Nat) (l : List Byte) : (s.storeBytes a l).sp = s.sp := by
  induction l generalizing s a with
  | nil => rfl
  | cons b bs ih => simp [State.storeBytes, ih]
@[simp] theorem State.storeBytes_dt (s : State) (a : Nat) (l : List Byte) : (s.storeBytes a l).dt = s.dt := by
  induction l generalizing s a with
  | nil => rfl
  | cons b bs ih => simp [State.storeBytes, ih]
@[simp] theorem State.storeBytes_st (s : State) (a : Nat) (l : List Byte) : (s.storeBytes a l).st = s.st := by
  induction l generalizing s a with
  | nil => rfl
  | cons b bs ih => simp [State.storeBytes, ih]
@[simp] theorem State.storeBytes_display (s : State) (a : Nat) (l : List Byte) : (s.storeBytes a l).display = s.display := by
  induction l generalizing s a with
  | nil => rfl
  | cons b bs ih => simp [State.storeBytes, ih]
@[simp] theorem State.storeBytes_key (s : State) (a : Nat) (l : List Byte) : (s.storeBytes a l).key = s.key := by
  induction l generalizing s a with
  | nil => rfl
  | cons b bs ih => simp [State.storeBytes, ih]
@[simp] theorem State.storeBytes_redraw (s : State) (a : Nat) (l : List Byte) : (s.storeBytes a l).redraw = s.redraw := by
  induction l generalizing s a with
  | nil => rfl
  | cons b bs ih => simp [State.storeBytes, ih]
@[simp] theorem State.storeBytes_status (s : State) (a : Nat) (l : List Byte) : (s.storeBytes a l).status = s.status := by
  induction l generalizing s a with
  | nil => rfl
  | cons b bs ih => simp [State.storeBytes, ih]
@[simp] theorem State.storeBytes_beep (s : State) (a : Nat) (l : List Byte) : (s.storeBytes a l).beep = s.beep := by
  induction l generalizing s a with
  | nil => rfl
  | cons b bs ih => simp [State.storeBytes, ih]
@[simp] theorem State.storeBytes_rnd (s : State) (a : Nat) (l : List Byte) : (s.storeBytes a l).rnd = s.rnd := by
  induction l generalizing s a with
  | nil => rfl
  | cons b bs ih => simp [State.storeBytes, ih]
@[simp] theorem State.storeBytes_draws (s : State) (a : Nat) (l : List Byte) : (s.storeBytes a l).draws = s.draws := by
  induction l generalizing s a with
  | nil => rfl
  | cons b bs ih => simp [State.storeBytes, ih]
@[simp] theorem State.storeBytes_pending (s : State) (a : Nat) (l : List Byte) : (s.storeBytes a l).pending = s.pending := by
  induction l generalizing s a with
  | nil => rfl
  | cons b bs ih => simp [State.storeBytes, ih]
@[simp] theorem State.storeBytes_params (s : State) (a : Nat) (l : List Byte) : (s.storeBytes a l).params = s.params := by
  induction l generalizing s a with
  | nil => rfl
  | cons b bs ih => simp [State.storeBytes, ih]
end storeBytes

section ticked
variable (s : State) (ns : Nat)
@[simp] theorem State.ticked_v : (s.ticked ns).v = s.v := by unfold State.ticked; split <;> rfl
@[simp] theorem State.ticked_i : (s.ticked ns).i = s.i := by unfold State.ticked; split <;> rfl
@[simp] theorem State.ticked_pc : (s.ticked ns).pc = s.pc := by unfold State.ticked; split <;> rfl
@[simp] theorem State.ticked_stack : (s.ticked ns).stack = s.stack := by unfold State.ticked; split <;> rfl
@[simp] theorem State.ticked_sp : (s.ticked ns).sp = s.sp := by unfold State.ticked; split <;> rfl
@[simp] theorem State.ticked_mem : (s.ticked ns).mem = s.mem := by unfold State.ticked; split <;> rfl
@[simp] theorem State.ticked_display : (s.ticked ns).display = s.display := by unfold State.ticked; split <;> rfl
@[simp] theorem State.ticked_key : (s.ticked ns).key = s.key := by unfold State.ticked; split <;> rfl
@[simp] theorem State.ticked_redraw : (s.ticked ns).redraw = s.redraw := by unfold State.ticked; split <;> rfl
@[simp] theorem State.ticked_status : (s.ticked ns).status = s.status := by unfold State.ticked; split <;> rfl
@[simp] theorem State.ticked_rnd : (s.ticked ns).rnd = s.rnd := by unfold State.ticked; split <;> rfl
@[simp] theorem State.ticked_draws : (s.ticked ns).draws = s.draws := by unfold State.ticked; split <;> rfl
@[simp] theorem State.ticked_pending : (s.ticked ns).pending = s.pending := by unfold State.ticked; split <;> rfl
@[simp] theorem State.ticked_params : (s.ticked ns).params = s.params := by unfold State.ticked; split <;> rfl
end ticked

section loadRom
variable (s : State) (bytes : List Byte)
@[simp] theorem State.loadRom_v : (s.loadRom bytes).v = s.v := by unfold State.loadRom; split <;> rfl
@[simp] theorem State.loadRom_i : (s.loadRom bytes).i = s.i := by unfold State.loadRom; split <;> rfl
@[simp] theorem State.loadRom_pc : (s.loadRom bytes).pc = s.pc := by unfold State.loadRom; split <;> rfl
@[simp] theorem State.loadRom_stack : (s.loadRom bytes).stack = s.stack := by unfold State.loadRom; split <;> rfl
@[simp] theorem State.loadRom_sp : (s.loadRom bytes).sp = s.sp := by unfold State.loadRom; split <;> rfl
@[simp] theorem State.loadRom_dt : (s.loadRom bytes).dt = s.dt := by unfold State.loadRom; split <;> rfl
@[simp] theorem State.loadRom_st : (s.loadRom bytes).st = s.st := by unfold State.loadRom; split <;> rfl
@[simp] theorem State.loadRom_display : (s.loadRom bytes).display = s.display := by unfold State.loadRom; split <;> rfl
@[simp] theorem State.loadRom_key : (s.loadRom bytes).key = s.key := by unfold State.loadRom; split <;> rfl
@[simp] theorem State.loadRom_redraw : (s.loadRom bytes).redraw = s.redraw := by unfold State.loadRom; split <;> rfl
@[simp] theorem State.loadRom_beep : (s.loadRom bytes).beep = s.beep := by unfold State.loadRom; split <;> rfl
@[simp] theorem State.loadRom_rnd : (s.loadRom bytes).rnd = s.rnd := by unfold State.loadRom; split <;> rfl
@[simp] theorem State.loadRom_draws : (s.loadRom bytes).draws = s.draws := by unfold State.loadRom; split <;> rfl
@[simp] theorem State.loadRom_pending : (s.loadRom bytes).pending = s.pending := by unfold State.loadRom; split <;> rfl
@[simp] theorem State.loadRom_params : (s.loadRom bytes).params = s.params := by unfold State.loadRom; split <;> rfl
end loadRom

end Sys2Proof.Machine
end

