-- ==== Sys2Proof/Laws/Ops.lean ====
section
/-!
SUPPORT. One lemma per shared operation, saying all it can do.
-/

namespace Sys2Proof.Machine

/-- Registers after a write (00_scope.md R9). -/
theorem State.getV_setV (s : State) (x j : RegIdx) (b : Byte) :
    (s.setV x b).getV j = if j = x then b else s.getV j := by
  simp only [State.getV, State.setV_v, Vector.getElem_set, Fin.ext_iff, eq_comm]

@[simp] theorem State.getV_setV_same (s : State) (x : RegIdx) (b : Byte) : (s.setV x b).getV x = b := by
  simp [State.getV_setV]

theorem State.getV_setV_ne (s : State) {x j : RegIdx} (h : j ≠ x) (b : Byte) : (s.setV x b).getV j = s.getV j := by
  simp [State.getV_setV, h]

/-- Registers after a result and a flag: the flag wins in VF (40_execution_cycle.md R76). -/
theorem State.getV_setVFlag (s : State) (x j : RegIdx) (b f : Byte) :
    (s.setVFlag x b f).getV j = if j = vf then f else if j = x then b else s.getV j := by
  simp only [State.setVFlag, State.getV_setV]

/-- Registers read the same where `v` is the same. -/
theorem State.getV_congr {s t : State} (h : t.v = s.v) (j : RegIdx) : t.getV j = s.getV j := by
  simp only [State.getV, h]

/-- Bytes read the same where memory and font are the same. -/
theorem State.peek_congr {s t : State} (hm : t.mem = s.mem) (hp : t.params = s.params) (a : Nat) :
    t.peek a = s.peek a := by
  simp only [State.peek, hm, hp]

/-- Cells read the same where the display is the same. -/
theorem State.pix_congr {s t : State} (h : t.display = s.display) (c : Fin 64) (r : Fin 32) : t.pix c r = s.pix c r := by
  simp only [State.pix, h]

/-- Memory after one byte is written. -/
theorem State.peek_poke {s : State} (hs : Memory.wf s.params.font s.mem) (a a' : Nat) (b : Byte) :
    (s.poke a b).peek a' = if a' = a then b else s.peek a' :=
  Memory.read_write s.params.font s.mem hs.1 a a' b

theorem State.poke_wf {s : State} (hs : Memory.wf s.params.font s.mem) {a : Nat} (ha : a < Config.memSize) (b : Byte) :
    Memory.wf (s.poke a b).params.font (s.poke a b).mem :=
  Memory.write_wf s.params.font hs ha b

theorem State.memWrite_wf {s : State} (hs : Memory.wf s.params.font s.mem) (a : Nat) (b : Byte) :
    Memory.wf (s.memWrite a b).params.font (s.memWrite a b).mem :=
  s.poke_wf hs (ea_lt a) b

/-- Stores keep the canonical form. -/
theorem State.storeBytes_wf {s : State} (hs : Memory.wf s.params.font s.mem) (a : Nat) (bytes : List Byte) :
    Memory.wf (s.storeBytes a bytes).params.font (s.storeBytes a bytes).mem := by
  induction bytes generalizing s a with
  | nil => exact hs
  | cons b bs ih => exact ih (s.memWrite_wf hs a b) (a + 1)

/-- A byte outside the stored ones reads as before (20_memory.md R46). -/
theorem State.peek_storeBytes_other {s : State} (hs : Memory.wf s.params.font s.mem) (a : Nat) (bytes : List Byte)
    (b : Nat) (h : ∀ j, j < bytes.length → b ≠ ea (a + j)) : (s.storeBytes a bytes).peek b = s.peek b := by
  induction bytes generalizing s a with
  | nil => rfl
  | cons v vs ih =>
    rw [State.storeBytes, ih (s.memWrite_wf hs a v) (a + 1) (fun j hj => by
      have := h (j + 1) (by simpa using hj); rwa [show a + 1 + j = a + (j + 1) by omega])]
    rw [State.memWrite, State.peek_poke hs, if_neg (by simpa using h 0 (by simp))]

/-- Each stored byte reads back, where the bytes do not go round the address space (20_memory.md R46). -/
theorem State.peek_storeBytes {s : State} (hs : Memory.wf s.params.font s.mem) (a : Nat) (bytes : List Byte)
    (hlen : bytes.length ≤ 4096) (j : Nat) (hj : j < bytes.length) :
    (s.storeBytes a bytes).peek (ea (a + j)) = bytes[j] := by
  induction bytes generalizing s a j with
  | nil => simp at hj
  | cons v vs ih =>
    simp only [List.length_cons] at hlen hj
    cases j with
    | zero =>
      rw [State.storeBytes, State.peek_storeBytes_other (s.memWrite_wf hs a v) (a + 1) vs _ (fun k hk h => by
        have := ea_add_inj (a := a) (j := 0) (k := 1 + k) (by omega) (by omega) (by rw [h]; congr 1; omega)
        omega)]
      rw [State.memWrite, State.peek_poke hs]; simp
    | succ k =>
      rw [State.storeBytes, show a + (k + 1) = a + 1 + k by omega,
        ih (s.memWrite_wf hs a v) (a + 1) (by omega) k (by omega)]
      simp

/-- `push?`: what it answers, and when (41_control_flow.md R80). -/
theorem State.push?_eq_some {s t : State} {ret : Word} (h : s.push? ret = some t) :
    ∃ hsp : s.sp.val < 16,
      t = { s with stack := s.stack.set s.sp.val ret, sp := ⟨s.sp.val + 1, Nat.succ_lt_succ hsp⟩ } := by
  unfold State.push? at h
  split at h
  next hsp => exact ⟨hsp, (Option.some.inj h).symm⟩
  next => cases h

theorem State.push?_eq_none {s : State} {ret : Word} : s.push? ret = none ↔ s.sp.val = 16 := by
  unfold State.push?
  split
  · simp; omega
  · simp; omega

/-- `pop?`: what it answers, and when (41_control_flow.md R78). -/
theorem State.pop?_eq_some {s t : State} {ret : Word} (h : s.pop? = some (ret, t)) :
    ∃ _ : 0 < s.sp.val, ret = s.stack[s.sp.val - 1] ∧
      t = { s with sp := ⟨s.sp.val - 1, by omega⟩ } := by
  unfold State.pop? at h
  split at h
  next hsp =>
    simp only [Option.some.injEq, Prod.mk.injEq] at h
    exact ⟨hsp, h.1.symm, h.2.symm⟩
  next => cases h

theorem State.pop?_eq_none {s : State} : s.pop? = none ↔ s.sp.val = 0 := by
  unfold State.pop?
  split
  · simp; omega
  · simp; omega

/-- The key LD Vx, K takes is down, and no lower one is (44_keypad_timers.md R105). -/
theorem State.leastKey_eq_some {s : State} {k : RegIdx} (h : s.leastKey = some k) :
    s.keyDown k = true ∧ ∀ j, j < k → s.keyDown j = false := by
  obtain ⟨hk, i, hi, hik, hlt⟩ := List.find?_eq_some_iff_getElem.1 h
  refine ⟨hk, fun j hj => ?_⟩
  simp only [List.getElem_finRange] at hik hlt
  have hki : i = k.val := by rw [← hik]; rfl
  simpa using hlt j.val (hki ▸ Fin.lt_def.1 hj)

theorem State.leastKey_eq_none {s : State} : s.leastKey = none ↔ ∀ k, s.keyDown k = false := by
  simp [State.leastKey]

/-- The bytes `readBytes` gives (20_memory.md R46). -/
theorem State.getElem_readBytes (s : State) (a n j : Nat) (hj : j < (s.readBytes a n).length) :
    (s.readBytes a n)[j] = s.memRead (a + j) := by
  simp [State.readBytes]

@[simp] theorem State.length_readBytes (s : State) (a n : Nat) : (s.readBytes a n).length = n := by
  simp [State.readBytes]

/-- The registers `regsUpTo` gives (45_index_memory.md R113). -/
theorem State.getElem_regsUpTo (s : State) (x : RegIdx) (j : Nat) (hj : j < (s.regsUpTo x).length) (hj' : j < 16) :
    (s.regsUpTo x)[j] = s.getV ⟨j, hj'⟩ := by
  simp [State.regsUpTo, State.getV]

@[simp] theorem State.length_regsUpTo (s : State) (x : RegIdx) : (s.regsUpTo x).length = x.val + 1 := by
  have := x.isLt
  simp [State.regsUpTo]

/-- The registers after LD Vx, [I] (45_index_memory.md R114). -/
theorem State.getElem_loadedRegs (s : State) (a : Nat) (x : RegIdx) (j : Nat) (hj : j < 16) :
    (s.loadedRegs a x)[j] = if j ≤ x.val then s.memRead (a + j) else s.getV ⟨j, hj⟩ := by
  simp only [State.loadedRegs, Vector.getElem_ofFn]

end Sys2Proof.Machine
end

