-- ==== Sys2Proof/Laws/PerInstr.lean ====
section
/-!
SUPPORT. Per instruction: its word selects its row of the opcode map (30_encoding.md R59, R60), `(w & mask) == match`.
-/

namespace Sys2Proof.Laws.MatchesRow

open Sys2Proof Sys2Proof.Machine

/-- The mask and the match of an instruction's row (30_encoding.md R59). -/
def row (i : Instr) : Word × Word :=
  match i with
  | .cls => (0xFFFF, 0x00E0)
  | .ret => (0xFFFF, 0x00EE)
  | .sys _ => (0xF000, 0x0000)
  | .jp _ => (0xF000, 0x1000)
  | .call _ => (0xF000, 0x2000)
  | .seImm _ _ => (0xF000, 0x3000)
  | .sneImm _ _ => (0xF000, 0x4000)
  | .seReg _ _ => (0xF00F, 0x5000)
  | .ldImm _ _ => (0xF000, 0x6000)
  | .addImm _ _ => (0xF000, 0x7000)
  | .ldReg _ _ => (0xF00F, 0x8000)
  | .orReg _ _ => (0xF00F, 0x8001)
  | .andReg _ _ => (0xF00F, 0x8002)
  | .xorReg _ _ => (0xF00F, 0x8003)
  | .addReg _ _ => (0xF00F, 0x8004)
  | .subReg _ _ => (0xF00F, 0x8005)
  | .shr _ _ => (0xF00F, 0x8006)
  | .subnReg _ _ => (0xF00F, 0x8007)
  | .shl _ _ => (0xF00F, 0x800E)
  | .sneReg _ _ => (0xF00F, 0x9000)
  | .ldI _ => (0xF000, 0xA000)
  | .jpV0 _ => (0xF000, 0xB000)
  | .rnd _ _ => (0xF000, 0xC000)
  | .drw _ _ _ => (0xF000, 0xD000)
  | .skp _ => (0xF0FF, 0xE09E)
  | .sknp _ => (0xF0FF, 0xE0A1)
  | .ldVxDt _ => (0xF0FF, 0xF007)
  | .ldVxK _ => (0xF0FF, 0xF00A)
  | .ldDtVx _ => (0xF0FF, 0xF015)
  | .ldStVx _ => (0xF0FF, 0xF018)
  | .addI _ => (0xF0FF, 0xF01E)
  | .ldF _ => (0xF0FF, 0xF029)
  | .ldB _ => (0xF0FF, 0xF033)
  | .stRegs _ => (0xF0FF, 0xF055)
  | .ldRegs _ => (0xF0FF, 0xF065)

/-- The instruction's word selects its row. -/
def Statement (i : Instr) : Prop := encode i &&& (row i).1 = (row i).2

theorem and_ones4 (b : BitVec 4) : b &&& 15#4 = b := by revert b; decide

theorem and_ones8 (b : BitVec 8) : b &&& 255#8 = b := BitVec.and_allOnes

/-- Masking a word of format NNN keeps its group. -/
theorem encNNN_mask (g : BitVec 4) (nnn : Addr) : encNNN g nnn &&& 0xF000#16 = g ++ 0#12 := by
  rw [encNNN, show (0xF000#16 : BitVec (4 + 12)) = 0xF#4 ++ 0#12 from rfl, BitVec.and_append]
  simp [and_ones4]

/-- Masking a word of format XKK keeps its group. -/
theorem encXKK_mask (g : BitVec 4) (x : RegIdx) (kk : Byte) : encXKK g x kk &&& 0xF000#16 = g ++ 0#12 := by
  rw [encXKK, show (0xF000#16 : BitVec (4 + (4 + 8))) = 0xF#4 ++ 0#12 from rfl, BitVec.and_append]
  simp [and_ones4]

/-- Masking a word of format X keeps its group and its function code. -/
theorem encX_mask (g : BitVec 4) (x : RegIdx) (kk : Byte) :
    encXKK g x kk &&& 0xF0FF#16 = g ++ (0#4 ++ kk) := by
  rw [encXKK, show (0xF0FF#16 : BitVec (4 + (4 + 8))) = 0xF#4 ++ (0#4 ++ 0xFF#8) from rfl, BitVec.and_append,
    BitVec.and_append]
  simp [and_ones4, and_ones8]

/-- Masking a word of format XYN keeps its group. -/
theorem encXYN_mask (g : BitVec 4) (x y : RegIdx) (n : BitVec 4) : encXYN g x y n &&& 0xF000#16 = g ++ 0#12 := by
  rw [encXYN, show (0xF000#16 : BitVec (4 + (4 + (4 + 4)))) = 0xF#4 ++ 0#12 from rfl, BitVec.and_append]
  simp [and_ones4]

/-- Masking a word of format XY keeps its group and its function code. -/
theorem encXY_mask (g : BitVec 4) (x y : RegIdx) (n : BitVec 4) :
    encXYN g x y n &&& 0xF00F#16 = g ++ (0#4 ++ (0#4 ++ n)) := by
  rw [encXYN, show (0xF00F#16 : BitVec (4 + (4 + (4 + 4)))) = 0xF#4 ++ (0#4 ++ (0#4 ++ 0xF#4)) from rfl,
    BitVec.and_append, BitVec.and_append, BitVec.and_append]
  simp [and_ones4]

theorem cls : Statement (.cls) := rfl
theorem ret : Statement (.ret) := rfl
theorem sys (nnn : Addr) : Statement (.sys nnn) := encNNN_mask _ nnn
theorem jp (nnn : Addr) : Statement (.jp nnn) := encNNN_mask _ nnn
theorem call (nnn : Addr) : Statement (.call nnn) := encNNN_mask _ nnn
theorem seImm (x : RegIdx) (kk : Byte) : Statement (.seImm x kk) := encXKK_mask _ x kk
theorem sneImm (x : RegIdx) (kk : Byte) : Statement (.sneImm x kk) := encXKK_mask _ x kk
theorem seReg (x y : RegIdx) : Statement (.seReg x y) := encXY_mask _ x y _
theorem ldImm (x : RegIdx) (kk : Byte) : Statement (.ldImm x kk) := encXKK_mask _ x kk
theorem addImm (x : RegIdx) (kk : Byte) : Statement (.addImm x kk) := encXKK_mask _ x kk
theorem ldReg (x y : RegIdx) : Statement (.ldReg x y) := encXY_mask _ x y _
theorem orReg (x y : RegIdx) : Statement (.orReg x y) := encXY_mask _ x y _
theorem andReg (x y : RegIdx) : Statement (.andReg x y) := encXY_mask _ x y _
theorem xorReg (x y : RegIdx) : Statement (.xorReg x y) := encXY_mask _ x y _
theorem addReg (x y : RegIdx) : Statement (.addReg x y) := encXY_mask _ x y _
theorem subReg (x y : RegIdx) : Statement (.subReg x y) := encXY_mask _ x y _
theorem shr (x y : RegIdx) : Statement (.shr x y) := encXY_mask _ x y _
theorem subnReg (x y : RegIdx) : Statement (.subnReg x y) := encXY_mask _ x y _
theorem shl (x y : RegIdx) : Statement (.shl x y) := encXY_mask _ x y _
theorem sneReg (x y : RegIdx) : Statement (.sneReg x y) := encXY_mask _ x y _
theorem ldI (nnn : Addr) : Statement (.ldI nnn) := encNNN_mask _ nnn
theorem jpV0 (nnn : Addr) : Statement (.jpV0 nnn) := encNNN_mask _ nnn
theorem rnd (x : RegIdx) (kk : Byte) : Statement (.rnd x kk) := encXKK_mask _ x kk
theorem drw (x y : RegIdx) (n : BitVec 4) : Statement (.drw x y n) := encXYN_mask _ x y n
theorem skp (x : RegIdx) : Statement (.skp x) := encX_mask _ x _
theorem sknp (x : RegIdx) : Statement (.sknp x) := encX_mask _ x _
theorem ldVxDt (x : RegIdx) : Statement (.ldVxDt x) := encX_mask _ x _
theorem ldVxK (x : RegIdx) : Statement (.ldVxK x) := encX_mask _ x _
theorem ldDtVx (x : RegIdx) : Statement (.ldDtVx x) := encX_mask _ x _
theorem ldStVx (x : RegIdx) : Statement (.ldStVx x) := encX_mask _ x _
theorem addI (x : RegIdx) : Statement (.addI x) := encX_mask _ x _
theorem ldF (x : RegIdx) : Statement (.ldF x) := encX_mask _ x _
theorem ldB (x : RegIdx) : Statement (.ldB x) := encX_mask _ x _
theorem stRegs (x : RegIdx) : Statement (.stRegs x) := encX_mask _ x _
theorem ldRegs (x : RegIdx) : Statement (.ldRegs x) := encX_mask _ x _

end Sys2Proof.Laws.MatchesRow
end

