-- ==== Sys2Proof/Laws/Step.lean ====
section
/-!
SUPPORT. What one operation of a run can do, said once: every answer of `Step`, `Tick` and the schedule.
-/

namespace Sys2Proof.Machine

/-- Every way `Step(rnd)` answers (40_execution_cycle.md R68). -/
theorem stepOp_cases (rnd : Byte) (s : State) :
    (∃ code opcode faultPc, s.status = .halted code opcode faultPc ∧
        stepOp rnd s = .fault (.halted code opcode faultPc)) ∨
    (s.status = .running ∧ Config.lastFetchPc < s.pc.toNat ∧ stepOp rnd s = .next (s.raiseFault .pcOutOfRange 0 s.pc)) ∨
    (s.status = .running ∧ s.pc.toNat ≤ Config.lastFetchPc ∧ decode s.fetchWord = none ∧
        stepOp rnd s = .next ((s.beginInstr rnd).raiseFault .unsupportedOpcode s.fetchWord s.pc)) ∨
    (∃ i, s.status = .running ∧ s.pc.toNat ≤ Config.lastFetchPc ∧ decode s.fetchWord = some i ∧
        stepOp rnd s = exec i (s.beginInstr rnd)) := by
  unfold stepOp
  cases hst : s.status with
  | halted code opcode faultPc => exact .inl ⟨code, opcode, faultPc, rfl, rfl⟩
  | running =>
    right
    by_cases hpc : s.pc.toNat ≤ Config.lastFetchPc
    · right
      simp only [State.canFetch, hpc, decide_true, if_true]
      cases hd : decode s.fetchWord with
      | none => exact .inl ⟨trivial, trivial, rfl, rfl⟩
      | some i => exact .inr ⟨i, trivial, trivial, rfl, rfl⟩
    · left
      simp only [State.canFetch, hpc, decide_false]
      exact ⟨trivial, by omega, rfl⟩

/-- Every way `Tick` answers (60_exceptions.md R127 to R131). -/
theorem tickOp_cases (ns : Nat) (s : State) :
    (∃ code opcode faultPc, s.status = .halted code opcode faultPc ∧
        tickOp ns s = .fault (.halted code opcode faultPc)) ∨
    (s.status = .running ∧ tickOp ns s = .next (s.ticked ns)) := by
  unfold tickOp
  cases hst : s.status with
  | halted code opcode faultPc => exact .inl ⟨code, opcode, faultPc, rfl, rfl⟩
  | running => exact .inr ⟨rfl, rfl⟩

/-- One decrement stops at 0 (60_exceptions.md R128). -/
theorem countDown_toNat (t : Byte) : (countDown t).toNat = t.toNat - 1 := by
  have := t.isLt
  simp only [countDown, u8, BitVec.toNat_ofNat]
  omega

/-- The step is the schedule's next operation, or a Step with a free byte (log 2). -/
theorem step_cons {s : State} {op : RunOp} {rest : List RunOp} (h : s.pending = op :: rest) :
    step s = runOp op { s with pending := rest } := by
  unfold step stepOnce
  rw [h]

theorem step_nil {s : State} (h : s.pending = []) :
    step s = stepOp (Config.freeRandomByte s.draws) { s with draws := s.draws + 1 } := by
  unfold step stepOnce
  rw [h]

end Sys2Proof.Machine
end

