-- ==== Sys2Proof/Tests/Slice0.lean ====
section
/-!
SUPPORT. Tests. Expected results are taken from spec/: the opcode map (30_encoding.md R59), the examples of the instruction
rules and the vectors of 95_test_vectors.md (named in each comment). The last part shows, for every statement with
hypotheses, a state and operands that meet them.
-/

namespace Sys2Proof.Tests

open Sys2Proof Sys2Proof.Machine

/-! WellFormed: the one check (30_encoding.md R60), with the terms it refuses and their neighbours. -/

theorem test_wellformed_refuses_sys_cls : WellFormed (.sys 0x0E0) = false := by decide
theorem test_wellformed_refuses_sys_ret : WellFormed (.sys 0x0EE) = false := by decide
theorem test_wellformed_admits_sys : WellFormed (.sys 0x0E1) = true ∧ WellFormed (.sys 0x000) = true := by decide

/-! Decoding: one word of each row, written out nibble by nibble from the pattern of 30_encoding.md R59. -/

theorem test_decode_cls : decode 0x00E0 = some .cls := by decide
theorem test_decode_ret : decode 0x00EE = some .ret := by decide
theorem test_decode_sys : decode 0x0FFF = some (.sys 0xFFF) := by decide
theorem test_decode_jp : decode 0x1ABC = some (.jp 0xABC) := by decide
theorem test_decode_call : decode 0x2DEF = some (.call 0xDEF) := by decide
theorem test_decode_seImm : decode 0x3A42 = some (.seImm 0xA 0x42) := by decide
theorem test_decode_sneImm : decode 0x4B87 = some (.sneImm 0xB 0x87) := by decide
theorem test_decode_seReg : decode 0x5C70 = some (.seReg 0xC 7) := by decide
theorem test_decode_ldImm : decode 0x6D99 = some (.ldImm 0xD 0x99) := by decide
theorem test_decode_addImm : decode 0x7E01 = some (.addImm 0xE 0x01) := by decide
theorem test_decode_ldReg : decode 0x8120 = some (.ldReg 1 2) := by decide
theorem test_decode_orReg : decode 0x8231 = some (.orReg 2 3) := by decide
theorem test_decode_andReg : decode 0x8342 = some (.andReg 3 4) := by decide
theorem test_decode_xorReg : decode 0x8453 = some (.xorReg 4 5) := by decide
theorem test_decode_addReg : decode 0x8564 = some (.addReg 5 6) := by decide
theorem test_decode_subReg : decode 0x8675 = some (.subReg 6 7) := by decide
theorem test_decode_shr : decode 0x8786 = some (.shr 7 8) := by decide
theorem test_decode_subnReg : decode 0x8897 = some (.subnReg 8 9) := by decide
theorem test_decode_shl : decode 0x89AE = some (.shl 9 0xA) := by decide
theorem test_decode_sneReg : decode 0x9AB0 = some (.sneReg 0xA 0xB) := by decide
theorem test_decode_ldI : decode 0xA123 = some (.ldI 0x123) := by decide
theorem test_decode_jpV0 : decode 0xB456 = some (.jpV0 0x456) := by decide
theorem test_decode_rnd : decode 0xC30F = some (.rnd 3 0x0F) := by decide
theorem test_decode_drw : decode 0xD12F = some (.drw 1 2 0xF) := by decide
theorem test_decode_skp : decode 0xE59E = some (.skp 5) := by decide
theorem test_decode_sknp : decode 0xE6A1 = some (.sknp 6) := by decide
theorem test_decode_ldVxDt : decode 0xF107 = some (.ldVxDt 1) := by decide
theorem test_decode_ldVxK : decode 0xF20A = some (.ldVxK 2) := by decide
theorem test_decode_ldDtVx : decode 0xF315 = some (.ldDtVx 3) := by decide
theorem test_decode_ldStVx : decode 0xF418 = some (.ldStVx 4) := by decide
theorem test_decode_addI : decode 0xF51E = some (.addI 5) := by decide
theorem test_decode_ldF : decode 0xF629 = some (.ldF 6) := by decide
theorem test_decode_ldB : decode 0xF733 = some (.ldB 7) := by decide
theorem test_decode_stRegs : decode 0xF855 = some (.stRegs 8) := by decide
theorem test_decode_ldRegs : decode 0xF965 = some (.ldRegs 9) := by decide

/-- Vector X6 and R61, R62: words that select no row. -/
theorem test_decode_unsupported :
    [0x5121, 0x8008, 0x800F, 0x9121, 0xE000, 0xF000, 0xF002, 0xF030, 0xFFFF].all (fun w => decode w == none) = true := by
  decide

/-- R61: bytes that are too few, and bytes after the instruction (R55). -/
theorem test_decodeBytes :
    decodeBytes [0x12] = .error .truncated ∧ decodeBytes [0x80, 0x08] = .error (.unsupported 0x8008) ∧
    decodeBytes [0x12, 0x34, 0x56] = .ok (.jp 0x234, [0x56]) :=
  ⟨rfl, rfl, rfl⟩

theorem test_decodeTableWord : decodeTableWord 16 0xD125 = some (.drw 1 2 5) := by decide

/-! One step of one instruction at 0x200. -/

/-- The state an answer holds; the reset state where it holds none. -/
def nextOf (r : Result) : State :=
  match r with
  | .next t => t
  | .fault _ => State.reset
  | .refused _ => State.reset

/-- The state after one step of word `w` placed where the step fetches. -/
def run1 (s : State) (w : Nat) : State := nextOf (step (s.withFetchWord 16 w))

/-- The reset state with V1 and V2 set. -/
def regs12 (a b : Byte) : State := (State.reset.setV 1 a).setV 2 b

/-- Vector F1. -/
theorem test_sys : (run1 State.reset 0x0000).pc = 0x202 := by decide
/-- Vector F3, and the example of R78. -/
theorem test_ret_empty : (run1 State.reset 0x00EE).pc = 0x202 ∧ (run1 State.reset 0x00EE).sp = 0 := by decide
theorem test_ret :
    (run1 { State.reset with sp := 1, stack := State.reset.stack.set 0 0x206 } 0x00EE).pc = 0x206 := by decide
/-- The example of R79. -/
theorem test_jp : (run1 State.reset 0x1234).pc = 0x234 := by decide
/-- Vectors F4 and F5: depth 15 pushes, depth 16 halts. -/
theorem test_call_at_depth_15 :
    let t := run1 { State.reset with sp := 15 } 0x2300
    t.stack[15] = 0x202 ∧ t.sp = 16 ∧ t.pc = 0x300 ∧ t.status = .running := by decide
theorem test_call_at_depth_16 :
    let t := run1 { State.reset with sp := 16 } 0x2300
    t.status = .halted .stackOverflow 0x2300 0x200 ∧ t.pc = 0x202 ∧ t.sp = 16 := by decide
/-- Vectors F8, F9. -/
theorem test_seImm :
    (run1 (State.reset.setV 3 0x12) 0x3312).pc = 0x204 ∧ (run1 (State.reset.setV 3 0x12) 0x3313).pc = 0x202 := by decide
theorem test_sneImm :
    (run1 (State.reset.setV 3 0x12) 0x4312).pc = 0x202 ∧ (run1 (State.reset.setV 3 0x12) 0x4313).pc = 0x204 := by decide
/-- Vectors F11 to F13. -/
theorem test_seReg : (run1 (regs12 7 8) 0x5110).pc = 0x204 ∧ (run1 (regs12 7 8) 0x5120).pc = 0x202 := by decide
theorem test_sneReg : (run1 (regs12 7 8) 0x9110).pc = 0x202 ∧ (run1 (regs12 7 8) 0x9120).pc = 0x204 := by decide
/-- Vectors F15, F16: the sum is not reduced, and V0 is read, never V5. -/
theorem test_jpV0_top : (run1 (State.reset.setV 0 0xFF) 0xBFFF).pc = 0x10FE := by decide
theorem test_jpV0_reads_v0 : (run1 ((State.reset.setV 0 0x10).setV 5 0x77) 0xB500).pc = 0x510 := by decide
/-- Vectors A1 to A4. -/
theorem test_ldImm : (run1 State.reset 0x6A42).getV 0xA = 0x42 := by decide
theorem test_addImm_no_flag :
    (run1 (State.reset.setV 0xF 7) 0x70FF).getV 0 = 0xFF ∧ (run1 (State.reset.setV 0xF 7) 0x70FF).getV 0xF = 7 := by decide
theorem test_addImm_wraps : (run1 (State.reset.setV 0xF 0xFF) 0x7F01).getV 0xF = 0 := by decide
/-- The example of R89. -/
theorem test_ldReg : (run1 (regs12 0 0x5A) 0x8120).getV 1 = 0x5A := by decide
/-- Vectors A5 to A7. -/
theorem test_orReg :
    (run1 ((regs12 0xF0 0x0F).setV 0xF 1) 0x8121).getV 1 = 0xFF ∧
    (run1 ((regs12 0xF0 0x0F).setV 0xF 1) 0x8121).getV 0xF = 1 := by decide
theorem test_andReg : (run1 (regs12 0xF0 0x3C) 0x8122).getV 1 = 0x30 := by decide
theorem test_xorReg : (run1 (regs12 0xFF 0x0F) 0x8123).getV 1 = 0xF0 := by decide
/-- Vectors S3 and A10: the carry, and the carry over the sum in VF. -/
theorem test_addReg : (run1 (regs12 0xFF 0x01) 0x8124).getV 1 = 0 ∧ (run1 (regs12 0xFF 0x01) 0x8124).getV 0xF = 1 := by
  decide
theorem test_addReg_into_vf : (run1 ((State.reset.setV 0xF 0x80).setV 1 0x80) 0x8F14).getV 0xF = 1 := by decide
/-- Vectors S4 and A14. -/
theorem test_subReg : (run1 (regs12 1 2) 0x8125).getV 1 = 0xFF ∧ (run1 (regs12 1 2) 0x8125).getV 0xF = 0 := by decide
theorem test_subReg_into_vf : (run1 ((State.reset.setV 0xF 5).setV 1 3) 0x8F15).getV 0xF = 1 := by decide
/-- Vectors A20 and A19. -/
theorem test_shr : (run1 (regs12 0xFF 2) 0x8126).getV 1 = 0x7F ∧ (run1 (regs12 0xFF 2) 0x8126).getV 0xF = 1 := by decide
theorem test_shr_uses_vy :
    let s := { regs12 0xFF 2 with params := { defaultParams with shiftUsesVy := true } }
    (run1 s 0x8126).getV 1 = 1 ∧ (run1 s 0x8126).getV 0xF = 0 := by decide
/-- Vectors A21, A22. -/
theorem test_subnReg : (run1 (regs12 1 2) 0x8127).getV 1 = 1 ∧ (run1 (regs12 1 2) 0x8127).getV 0xF = 1 := by decide
theorem test_subnReg_borrow : (run1 (regs12 2 1) 0x8127).getV 1 = 0xFF ∧ (run1 (regs12 2 1) 0x8127).getV 0xF = 0 := by
  decide
/-- Vectors A26 and A27. -/
theorem test_shl_into_vf : (run1 (State.reset.setV 0xF 0xC1) 0x8FFE).getV 0xF = 1 := by decide
theorem test_shl_uses_vy :
    let s := { regs12 0xFF 0x81 with params := { defaultParams with shiftUsesVy := true } }
    (run1 s 0x812E).getV 1 = 2 ∧ (run1 s 0x812E).getV 0xF = 1 := by decide
/-- Vector A28: the schedule gives the Step its `rnd`; vector A29: any `rnd`, here the free one. -/
theorem test_rnd :
    (nextOf (step { State.reset.withFetchWord 16 0xC30F with pending := [.step 0xAB] })).getV 3 = 0x0B := by decide
theorem test_rnd_mask_zero (r : Byte) : (nextOf (stepOp r (State.reset.withFetchWord 16 0xC300))).getV 3 = 0 := by
  exact BitVec.and_zero
/-- Vector S2. -/
theorem test_cls :
    let t := run1 { State.reset with display := State.reset.display.set 5 true } 0x00E0
    t.pix 5 0 = false ∧ t.redraw = true := by decide
/-- Vectors D4 and D5, the two settings of `DRAW_EDGE`: a row of eight pixels at column 62. -/
def edgeSprite (edge : DrawEdge) : State :=
  { ((State.reset.setV 0 62).setI 0x300).memWrite 0x300 0xFF with params := { defaultParams with drawEdge := edge } }
theorem test_drw_clip :
    let t := run1 (edgeSprite .clip) 0xD011
    t.pix 62 0 = true ∧ t.pix 63 0 = true ∧ t.pix 0 0 = false ∧ t.pix 0 1 = false ∧ t.getV 0xF = 0 := by decide
theorem test_drw_wrap :
    let t := run1 (edgeSprite .wrap) 0xD011
    t.pix 63 0 = true ∧ t.pix 5 0 = true ∧ t.pix 6 0 = false ∧ t.getV 0xF = 0 := by decide
/-- Vector D8: the origin is read before VF is cleared, and the collision is reported. -/
theorem test_drw_vf_origin :
    let s := ((State.reset.setV 0xF 0xA).setI 0x300).memWrite 0x300 0x80
    let t := run1 { s with display := s.display.set 10 true } 0xDF11
    t.pix 10 0 = false ∧ t.getV 0xF = 1 ∧ t.redraw = true := by decide
/-- Vectors K2 and K4. -/
theorem test_skp : (run1 { State.reset.setV 5 0x13 with key := State.reset.key.set 3 true } 0xE59E).pc = 0x204 := by decide
theorem test_sknp : (run1 (State.reset.setV 5 0x0A) 0xE5A1).pc = 0x204 := by decide
/-- Vector K5, and the wait of S9. -/
theorem test_ldVxK :
    let t := run1 { State.reset with key := (State.reset.key.set 7 true).set 3 true } 0xF20A
    t.getV 2 = 3 ∧ t.pc = 0x202 := by decide
theorem test_ldVxK_waits : (run1 State.reset 0xF20A).pc = 0x200 ∧ (run1 State.reset 0xF20A).getV 2 = 0 := by decide
/-- Vectors K7 to K9. -/
theorem test_ldVxDt : (run1 (State.reset.setDt 0x3C) 0xF307).getV 3 = 0x3C := by decide
theorem test_ldDtVx : (run1 (State.reset.setV 3 5) 0xF315).dt = 5 := by decide
theorem test_ldStVx : (run1 (State.reset.setV 3 2) 0xF318).st = 2 ∧ (run1 (State.reset.setV 3 2) 0xF318).soundOn = true := by
  decide
/-- Vectors M1 to M4. -/
theorem test_ldI : (run1 (State.reset.setI 0x1234) 0xAFFF).i = 0x0FFF := by decide
theorem test_addI_past_memory : (run1 ((State.reset.setI 0x0FFF).setV 0 1) 0xF01E).i = 0x1000 := by decide
theorem test_addI_wraps : (run1 ((State.reset.setI 0xFFFF).setV 0 1) 0xF01E).i = 0 := by decide
theorem test_ldF : (run1 (State.reset.setV 0 0x1A) 0xF029).i = 0x0D2 := by decide
/-- Vectors S7 and M7. -/
theorem test_ldB :
    let t := run1 ((State.reset.setI 0x300).setV 1 234) 0xF133
    t.peek 0x300 = 2 ∧ t.peek 0x301 = 3 ∧ t.peek 0x302 = 4 := by decide
theorem test_ldB_wraps :
    let t := run1 ((State.reset.setI 0xFFF).setV 0 123) 0xF033
    t.peek 0xFFF = 1 ∧ t.peek 0x000 = 2 ∧ t.peek 0x001 = 3 ∧ t.i = 0xFFF := by decide
/-- The example of R113, and vector M9. -/
theorem test_stRegs :
    let t := run1 (((State.reset.setI 0x300).setV 0 1).setV 1 2) 0xF155
    t.peek 0x300 = 1 ∧ t.peek 0x301 = 2 ∧ t.i = 0x300 := by decide
theorem test_stRegs_v0_only :
    let t := run1 (((State.reset.setI 0x300).setV 0 5).setV 1 6) 0xF055
    t.peek 0x300 = 5 ∧ t.peek 0x301 = 0 := by decide
/-- The example of R114, and vector M11. -/
theorem test_ldRegs :
    let t := run1 ((State.reset.setI 0x300).storeBytes 0x300 [2, 3, 4]) 0xF265
    t.getV 0 = 2 ∧ t.getV 1 = 3 ∧ t.getV 2 = 4 ∧ t.getV 3 = 0 := by decide
theorem test_ldRegs_wraps : (run1 ((State.reset.setI 0x1300).memWrite 0x300 0x99) 0xF065).getV 0 = 0x99 := by decide

/-! The execution cycle and the host operations. -/

/-- Vectors X1, X3, X4, X5. -/
theorem test_fetch_at_ffe :
    let t := run1 (State.reset.setPc 0xFFE) 0x6001
    t.getV 0 = 1 ∧ t.pc = 0x1000 ∧ t.status = .running := by decide
theorem test_fetch_at_fff :
    let t := nextOf (step (State.reset.setPc 0xFFF))
    t.status = .halted .pcOutOfRange 0 0xFFF ∧ t.pc = 0xFFF := by decide
theorem test_fetch_odd : (run1 (State.reset.setPc 0x201) 0x1234).pc = 0x234 := by decide
theorem test_unsupported_halts :
    (run1 State.reset 0x8008).status = .halted .unsupportedOpcode 0x8008 0x200 ∧ (run1 State.reset 0x8008).pc = 0x202 := by
  decide
/-- 60_exceptions.md R115: the numeric codes. -/
theorem test_fault_codes :
    Status.running.number = 0 ∧ FaultCode.unsupportedOpcode.number = 1 ∧ FaultCode.stackOverflow.number = 2 ∧
    FaultCode.pcOutOfRange.number = 3 ∧ FaultCode.romTooLarge.number = 4 := by decide
/-- Vectors T1, T2. -/
theorem test_tick_effective :
    let t := nextOf (tickOp 16666667 ((State.reset.setDt 5).setSt 5))
    t.dt = 4 ∧ t.st = 4 ∧ t.beep = false := by decide
theorem test_tick_too_early :
    let t := nextOf (tickOp 16666666 ((State.reset.setDt 5).setSt 5))
    t.dt = 5 ∧ t.st = 5 ∧ t.beep = false := by decide
/-- Vectors T5, T6. -/
theorem test_tick_at_zero : (nextOf (tickOp 1000000000 State.reset)).dt = 0 := by decide
theorem test_tick_beeps :
    let t := nextOf (tickOp 1000000000 (State.reset.setSt 1))
    t.st = 0 ∧ t.beep = true ∧ t.soundOn = false := by decide
/-- Vector B4's LoadRom, and vector B2's report. -/
theorem test_loadRom :
    (State.reset.loadRom [0x12, 0x00]).peek 0x200 = 0x12 ∧ (State.reset.loadRom [0x12, 0x00]).mem = [(0x200, 0x12)] := by
  decide
theorem test_loadRom_too_large (bytes : List Byte) (h : bytes.length = 3585) :
    (State.reset.loadRom bytes).status = .halted .romTooLarge 0 0x200 := by
  simp [State.loadRom, h, Config.romMax, State.raiseFault, State.reset, State.resetWith, Config.pcReset]
/-- 20_memory.md R40: the first and last glyph's bytes, and the byte after the font (90_conflicts.md C5). -/
theorem test_font :
    State.reset.peek 0x050 = 0xF0 ∧ State.reset.peek 0x055 = 0x20 ∧ State.reset.peek 0x082 = 0xF0 ∧
    State.reset.peek 0x09B = 0xF0 ∧ State.reset.peek 0x09F = 0x80 ∧ State.reset.peek 0x0A0 = 0 ∧
    State.reset.peek 0x04F = 0 := by decide
/-- Vector X8. -/
theorem test_reset_leaves_halted :
    ((State.reset.raiseFault .unsupportedOpcode 0x8008 0x200).resetCore).status = .running := by decide

/-! Witnesses: states and operands that meet the hypotheses of each statement, at the boundary of each clause. -/

theorem witness_DecodeInvertsEncode : WellFormed (.sys 0x0E1) = true := by decide
theorem witness_EncodeInvertsDecode : decode 0xF165 = some (.ldRegs 1) := by decide
theorem witness_DecodeSelectsFirstMatchingRow :
    (0x0E1 : Addr) ≠ 0x0E0 ∧ (0x0E1 : Addr) ≠ 0x0EE ∧
    (opcodeTable[0]?.map (fun r => r.selects 0x00E0)) = some true ∧
    (opcodeTable[2]?.map (fun r => r.selects 0x00E0)) = some true := by decide

/-- The reset state with `LD V1, 0x23` at its pc. -/
def ldAtPc : State := State.reset.withFetchWord 16 0x6123

theorem witness_StepAdvancesPcThenActs :
    ldAtPc.status = .running ∧ ldAtPc.pc.toNat ≤ 0xFFE ∧ decode (ldAtPc.wordAt ldAtPc.pc.toNat) = some (.ldImm 1 0x23) := by
  decide
theorem witness_StepRunsDecodedInstruction :
    let s := { ldAtPc with pending := [.step 0xAB] }
    s.status = .running ∧ s.pc.toNat ≤ 0xFFE ∧ decode (s.wordAt s.pc.toNat) = some (.ldImm 1 0x23) ∧
    s.pending = [.step 0xAB] ∧ ldAtPc.pending = [] := by decide
theorem witness_FetchBeyondMemoryHalts :
    (State.reset.setPc 0xFFF).status = .running ∧ 0xFFE < (State.reset.setPc 0xFFF).pc.toNat := by decide
theorem witness_UnsupportedWordHalts :
    let s := State.reset.withFetchWord 16 0x8008
    s.status = .running ∧ s.pc.toNat ≤ 0xFFE ∧ decode (s.wordAt s.pc.toNat) = none := by decide
theorem witness_CallBeyondDepthSixteenHalts :
    let s := { State.reset with sp := 16 }.withFetchWord 16 0x2300
    s.status = .running ∧ s.pc.toNat ≤ 0xFFE ∧ s.wordAt s.pc.toNat = addrWord 0x2 0x300 ∧ s.sp.val = 16 := by decide
theorem witness_FaultsArePrecise : State.reset.status = .running := by decide
theorem witness_HaltedCoreHasNoStepAndNoTick :
    (State.reset.raiseFault .stackOverflow 0x2300 0x200).status = .halted .stackOverflow 0x2300 0x200 := by decide
theorem witness_HaltedStatusIsKeptUntilReset :
    let s := State.reset.raiseFault .stackOverflow 0x2300 0x200
    s.status = .halted .stackOverflow 0x2300 0x200 ∧
    (nextOf (runOps .loaded s [.run .ackRedraw])).status = .halted .stackOverflow 0x2300 0x200 := by decide
theorem witness_SysDoesNothing : (0x123 : Addr) ≠ 0x0E0 ∧ (0x123 : Addr) ≠ 0x0EE := by decide
theorem witness_RetPopsIntoPcOrDoesNothing :
    0 < ({ State.reset with sp := 1 } : State).sp.val ∧ State.reset.sp.val = 0 := by decide
theorem witness_CallPushesAdvancedPc :
    ({ State.reset with sp := 15 } : State).sp.val < 16 ∧ ({ State.reset with sp := 16 } : State).sp.val = 16 := by decide
theorem witness_RetUndoesCall : ({ State.reset with sp := 15 } : State).sp.val < 16 := by decide
theorem witness_ShiftsSetTheBitShiftedOut :
    (0xFF : Byte) = (if (regs12 0xFF 2).params.shiftUsesVy = true then (regs12 0xFF 2).getV 2 else (regs12 0xFF 2).getV 1) := by
  decide
theorem witness_AddAndSubtractOutsideVf : (1 : RegIdx) ≠ 0xF := by decide
theorem witness_RandomByteIsMasked : (0x0B : Byte) &&& 0x0F = 0x0B := by decide
theorem witness_OnlyRndReadsTheRandomByte : ∀ x kk, Instr.cls ≠ .rnd x kk := by intro x kk h; cases h
theorem witness_DrawingTwiceRestoresDisplay :
    (0 : RegIdx) ≠ 0xF ∧ (1 : RegIdx) ≠ 0xF ∧ ∀ c r, State.reset.pix c r = false :=
  ⟨by decide, by decide, fun c r => by simp [State.pix, State.reset, State.resetWith]⟩
theorem witness_KeySkipsTestLowNibbleKey : (3 : RegIdx).val = ((State.reset.setV 5 0x13).getV 5).toNat % 16 := by decide
theorem witness_KeyWaitTakesLeastKey :
    let s := { State.reset with key := (State.reset.key.set 7 true).set 3 true }
    s.keyDown 3 = true ∧ (∀ j : RegIdx, j < 3 → s.keyDown j = false) := by decide
theorem witness_KeyWaitRewinds : ∀ k : RegIdx, State.reset.keyDown k = false := by decide
theorem witness_KeyWaitRepeatsUntilKey :
    let s := State.reset.withFetchWord 16 0xF20A
    s.status = .running ∧ s.pc.toNat ≤ 0xFFE ∧ decode (s.wordAt s.pc.toNat) = some (.ldVxK 2) ∧
    (∀ k : RegIdx, s.keyDown k = false) := by decide
theorem witness_TickCountsDownOnceAndBeeps :
    State.reset.status = .running ∧ 60 * 16666667 ≥ 1000000000 ∧ 60 * 16666666 < 1000000000 := by decide
/-- For BcdStoresDecimalDigits, StoreRegistersWritesBytes, StoreThenLoadRestoresRegisters and DataAccessesWrapAndReadBack: a
memory with a written byte, and I where the stored bytes go round the address space. -/
theorem witness_MemoryIsCanonical :
    let s := (State.reset.memWrite 0x1300 0x99).setI 0xFFF
    Memory.wf s.params.font s.mem ∧ s.mem = [(0x300, 0x99)] ∧ ea (s.i.toNat + 1) = 0x000 := by decide
theorem witness_StoredBytesAreFetchedNext :
    let s := State.reset.setI 0x204
    Memory.wf s.params.font s.mem ∧ (1 : RegIdx) ≤ 1 ∧ (1 : RegIdx).val = (0 : RegIdx).val + 1 ∧
    (0x204 : Word).toNat = ea (s.i.toNat + (0 : RegIdx).val) ∧ (0x204 : Word).toNat ≤ 0xFFE := by decide
theorem witness_StoredBytesAreFetchedNext_top :
    let s := State.reset.setI 0xFFE
    (0xFFE : Word).toNat = ea (s.i.toNat + (0 : RegIdx).val) ∧ (0xFFE : Word).toNat ≤ 0xFFE := by decide
theorem witness_CanonicalMemoriesThatReadAlikeAreEqual :
    Memory.wf defaultFont [(0x300, 0x80)] ∧ Memory.wf defaultFont [(0x300, 0x80)] ∧
    ∀ a, a < 4096 → Memory.read defaultFont [(0x300, 0x80)] a = Memory.read defaultFont [(0x300, 0x80)] a :=
  ⟨by decide, by decide, fun _ _ => rfl⟩
theorem witness_UnreadStateIsNeverSeen :
    ProgramView State.reset { State.reset with stack := State.reset.stack.set 3 0x206, st := 9, redraw := true } :=
  ⟨rfl, rfl, rfl, rfl, fun k h => absurd h (by simp [State.reset, State.resetWith]), rfl, rfl, rfl, rfl, rfl, rfl, rfl⟩
theorem witness_NoOperationReadsCpuHz : ∃ t, step State.reset = .next t := ⟨_, rfl⟩
theorem witness_EveryStepKeepsSafeState : State.reset.Inv ∧ ∃ t, step State.reset = .next t :=
  ⟨⟨by decide, by decide, by decide, trivial⟩, _, rfl⟩
theorem witness_ResetAndLoadRomKeepSafeState : State.reset.Inv := ⟨by decide, by decide, by decide, trivial⟩
theorem witness_SelfJumpStopsTheProgram :
    let s := State.reset.withFetchWord 16 0x1200
    s.status = .running ∧ s.StoppedAt 0x200 := ⟨by decide, by decide, by decide, by decide⟩
theorem witness_LoadRomCopiesOrRefusesTooLarge :
    Memory.wf State.reset.params.font State.reset.mem ∧ (List.replicate 3584 (0x12 : Byte)).length ≤ 3584 ∧
    3584 < (List.replicate 3585 (0x12 : Byte)).length :=
  ⟨by decide, Nat.le_of_eq List.length_replicate, by rw [List.length_replicate]; decide⟩
theorem witness_OperationsComeInBootOrder : (Operation.run .ackRedraw) ≠ .reset := by decide
theorem witness_PlacedWordRunsNext :
    Memory.wf State.reset.params.font State.reset.mem ∧ 0x6123 < 65536 ∧
    decode (BitVec.ofNat 16 0x6123) = some (.ldImm 1 0x23) := by decide

end Sys2Proof.Tests
end

section
/-!
PROOFS. Data accesses (00_scope.md R10, 20_memory.md R42): what `memWrite` does to each byte, to a later `memRead`, and to
the rest of the state.
-/

namespace Sys2Proof.Machine

/-- `mem[c]` after a data write: only the byte at `EA(a)` is replaced. -/
theorem State.peek_memWrite {s : State} (hs : Memory.wf s.params.font s.mem) (a c : Nat) (v : Byte) :
    (s.memWrite a v).peek c = if c = ea a then v else s.peek c :=
  State.peek_poke hs (ea a) c v

/-- A data read after a data write: the two meet where their effective addresses agree. -/
theorem State.memRead_memWrite {s : State} (hs : Memory.wf s.params.font s.mem) (a b : Nat) (v : Byte) :
    (s.memWrite a v).memRead b = if ea b = ea a then v else s.memRead b :=
  State.peek_memWrite hs a (ea b) v

/-- The frame of a data write: it writes no part but memory. -/
theorem State.memWrite_sameExcept (s : State) (a : Nat) (v : Byte) : SameExcept [.memory] s (s.memWrite a v) where
  regs _ := State.getV_congr (s.memWrite_v a v)
  index _ := s.memWrite_i a v
  pc _ := s.memWrite_pc a v
  stack _ := ⟨s.memWrite_stack a v, s.memWrite_sp a v⟩
  delayTimer _ := s.memWrite_dt a v
  soundTimer _ := s.memWrite_st a v
  memory h := absurd (List.mem_singleton_self Part.memory) h
  display _ := State.pix_congr (s.memWrite_display a v)
  redraw _ := s.memWrite_redraw a v
  status _ := s.memWrite_status a v
  keys := s.memWrite_key a v
  params := s.memWrite_params a v
  host := ⟨s.memWrite_beep a v, s.memWrite_rnd a v, s.memWrite_draws a v, s.memWrite_pending a v⟩

/-- Settles O40: `EA` is reduction modulo 4096, and a canonical memory reads back the one byte that was written. -/
theorem dataAccessesWrapAndReadBack : Obligations.DataAccessesWrapAndReadBack := by
  intro s a b v hs
  refine ⟨?reads, ?readsBack, ?otherBytes, ?frame⟩
  case reads => rfl
  case readsBack => exact State.memRead_memWrite hs a b v
  case otherBytes =>
    intro c (hc : c ≠ ea a)
    rw [State.peek_memWrite hs, if_neg hc]
  case frame => exact s.memWrite_sameExcept a v

end Sys2Proof.Machine
end

section
/-!
PROOFS. Reset (10_state.md R33, 70_reset_and_hazards.md R137): the reset contents of memory by address range, and what each
accessor reads after `Reset`.
-/

namespace Sys2Proof.Machine

/-- The reset contents inside the font area, 0x050..0x09F (20_memory.md R40). -/
theorem resetByte_fontBase_add (font : Vector Byte 80) (d : Fin 80) : resetByte font (0x050 + d.val) = font[d.val] := by
  have hbase : Config.fontBase ≤ 0x050 + d.val := Nat.le_add_right _ _
  have hoffset : 0x050 + d.val - Config.fontBase = d.val := Nat.add_sub_cancel_left _ _
  rw [resetByte, if_pos hbase, hoffset, List.getD_eq_getElem _ _ (by simp), Vector.getElem_toList]

/-- The reset contents below and above the font area (20_memory.md R39): above it the offset runs past the 80 font bytes. -/
theorem resetByte_outside_font (font : Vector Byte 80) {a : Nat} (h : a < 0x050 ∨ 0x0A0 ≤ a) : resetByte font a = 0 := by
  rcases h with hbelow | habove
  · exact if_neg (Nat.not_le_of_gt hbelow)
  · have hbase : Config.fontBase ≤ a := Nat.le_trans (by decide) habove
    have hoffset : font.toList.length ≤ a - Config.fontBase := by
      rw [Vector.length_toList, Config.fontBase]
      omega
    rw [resetByte, if_pos hbase, List.getD_eq_default _ _ hoffset]

section
variable (s : State)

@[simp] theorem State.resetCore_getV (x : RegIdx) : s.resetCore.getV x = 0 := Vector.getElem_replicate x.isLt
@[simp] theorem State.resetCore_stack_get (k : Fin 16) : s.resetCore.stack[k.val] = 0 := Vector.getElem_replicate k.isLt
@[simp] theorem State.resetCore_pix (c : Fin 64) (r : Fin 32) : s.resetCore.pix c r = false :=
  Vector.getElem_replicate (cellIndex c r).isLt
@[simp] theorem State.resetCore_keyDown (k : RegIdx) : s.resetCore.keyDown k = false := Vector.getElem_replicate k.isLt
/-- No cell is listed after `Reset`, so every address reads as the reset contents. -/
@[simp] theorem State.resetCore_peek (a : Nat) : s.resetCore.peek a = resetByte s.params.font a := rfl
end

/-- Settles O50: every field by the accessor that reads it; the scalar fields are what `State.resetWith` writes. -/
theorem resetSetsEveryField : Obligations.ResetSetsEveryField := by
  refine ⟨rfl, fun s => ⟨s.resetCore, rfl, s.resetCore_getV, ?i, ?pc, ?sp, s.resetCore_stack_get, ?dt, ?st, ?font, ?zero,
    s.resetCore_pix, s.resetCore_keyDown, ?redraw, ?status, ?soundOn, ?params⟩⟩
  case font =>
    intro d
    rw [State.resetCore_peek, resetByte_fontBase_add]
  case zero =>
    intro a ha
    rw [State.resetCore_peek, resetByte_outside_font _ ha]
  case i | pc | sp | dt | st | redraw | status | soundOn | params => rfl

end Sys2Proof.Machine
end

section
/-!
PROOFS. The opcode map (30_encoding.md R59, R60): what each mask keeps of a word, the rows of each group, that the dispatch
on the fields is the search of the map, and which rows overlap.
-/

namespace Sys2Proof

open Machine
open Laws.MatchesRow (encNNN_mask encX_mask encXY_mask)

/-! A word as its fields, and what each mask of R59 keeps of it. -/

theorem encNNN_fields (w : Word) : encNNN (fields w).group (fields w).nnn = w := by
  apply BitVec.eq_of_toNat_eq
  simp only [encNNN, fields, toNat_concat, toNat_field]
  omega

theorem encXKK_fields (w : Word) : encXKK (fields w).group (fields w).x (fields w).kk = w := by
  apply BitVec.eq_of_toNat_eq
  simp only [encXKK, fields, regOfNibble, toNat_concat, nibbleOfReg_toNat, toNat_field]
  omega

theorem encXYN_fields (w : Word) : encXYN (fields w).group (fields w).x (fields w).y (fields w).n = w := by
  apply BitVec.eq_of_toNat_eq
  simp only [encXYN, fields, regOfNibble, toNat_concat, nibbleOfReg_toNat, toNat_field]
  omega

/-- The mask of formats NNN, XKK and XYN keeps the group. -/
theorem and_groupMask (w : Word) : w &&& 0xF000#16 = (fields w).group ++ 0#12 := by
  conv_lhs => rw [← encNNN_fields w, encNNN_mask]

/-- The mask of format XY keeps the group and `n`. -/
theorem and_groupNMask (w : Word) : w &&& 0xF00F#16 = (fields w).group ++ (0#4 ++ (0#4 ++ (fields w).n)) := by
  conv_lhs => rw [← encXYN_fields w, encXY_mask]

/-- The mask of format X keeps the group and `kk`. -/
theorem and_groupKkMask (w : Word) : w &&& 0xF0FF#16 = (fields w).group ++ (0#4 ++ (fields w).kk) := by
  conv_lhs => rw [← encXKK_fields w, encX_mask]

theorem and_groupMask_eq_iff (v w : Word) :
    v &&& 0xF000#16 = w &&& 0xF000#16 ↔ (fields v).group.toNat = (fields w).group.toNat := by
  rw [and_groupMask, and_groupMask, ← BitVec.toNat_inj]
  simp only [toNat_concat]
  omega

theorem and_groupNMask_eq_iff (v w : Word) : v &&& 0xF00F#16 = w &&& 0xF00F#16 ↔
    (fields v).group.toNat = (fields w).group.toNat ∧ (fields v).n.toNat = (fields w).n.toNat := by
  rw [and_groupNMask, and_groupNMask, ← BitVec.toNat_inj]
  simp only [toNat_concat]
  omega

theorem and_groupKkMask_eq_iff (v w : Word) : v &&& 0xF0FF#16 = w &&& 0xF0FF#16 ↔
    (fields v).group.toNat = (fields w).group.toNat ∧ (fields v).kk.toNat = (fields w).kk.toNat := by
  rw [and_groupKkMask, and_groupKkMask, ← BitVec.toNat_inj]
  simp only [toNat_concat]
  omega

/-! When a row of the map selects a word. -/

theorem opcodeTable_value_masked : ∀ r ∈ opcodeTable, r.value &&& r.mask = r.value := by decide

theorem opcodeTable_mask_group : ∀ r ∈ opcodeTable, r.mask &&& 0xF000#16 = 0xF000#16 := by decide

section
variable {r : OpcodeRow} {w : Word}

theorem OpcodeRow.selects_iff : r.selects w = true ↔ w &&& r.mask = r.value := beq_iff_eq

/-- A row whose mask keeps all bits selects its match alone. -/
theorem OpcodeRow.eq_value_of_selects (hmask : r.mask = 0xFFFF#16) (h : r.selects w = true) : w = r.value := by
  rw [← selects_iff.1 h, hmask]
  exact BitVec.and_allOnes.symm

/-- A row of the map selects the words that its mask makes equal to its match. -/
theorem OpcodeRow.selects_iff_masked (hr : r ∈ opcodeTable) : r.selects w = true ↔ r.value &&& r.mask = w &&& r.mask := by
  rw [selects_iff, opcodeTable_value_masked r hr, eq_comm]

/-- A row of the map selects words of its own group only. -/
theorem OpcodeRow.group_eq_of_selects (hr : r ∈ opcodeTable) (h : r.selects w = true) :
    (fields r.value).group.toNat = (fields w).group.toNat := by
  rw [← and_groupMask_eq_iff, ← opcodeTable_mask_group r hr, ← BitVec.and_assoc, ← BitVec.and_assoc,
    (selects_iff_masked hr).1 h]

end

/-! The rows of one group, and the search among them. -/

/-- The rows of the map that stand for the words of group `g` (30_encoding.md R59). -/
def rowsOfGroup (g : Nat) : List OpcodeRow := opcodeTable.filter (fun r => (fields r.value).group.toNat == g)

theorem mem_rowsOfGroup {r : OpcodeRow} {g : Nat} :
    r ∈ rowsOfGroup g ↔ r ∈ opcodeTable ∧ (fields r.value).group.toNat = g := by
  rw [rowsOfGroup, List.mem_filter, beq_iff_eq]

/-- The search of the whole map is the search among the rows of the word's group. -/
theorem decodeByTable_eq_find?_rowsOfGroup {w : Word} {g : Nat} (hg : (fields w).group.toNat = g) :
    decodeByTable w = ((rowsOfGroup g).find? (·.selects w)).map (·.instr (fields w)) := by
  rw [rowsOfGroup, List.find?_filter, decodeByTable]
  congr 1
  refine List.find?_congr fun r hr => ?_
  rw [Bool.eq_iff_iff, decide_eq_true_iff, beq_iff_eq, ← hg]
  exact (and_iff_right_of_imp (OpcodeRow.group_eq_of_selects hr)).symm

/-- A row whose mask keeps the group alone selects every word of its group. -/
theorem OpcodeRow.selects_of_groupMask {w : Word} {g : Nat} {r : OpcodeRow} (hg : (fields w).group.toNat = g)
    (hr : r ∈ rowsOfGroup g) (hmask : r.mask = 0xF000#16) : r.selects w = true := by
  obtain ⟨hmem, hrg⟩ := mem_rowsOfGroup.1 hr
  rw [selects_iff_masked hmem, hmask, and_groupMask_eq_iff, hrg, hg]

/-- A group of one row whose mask keeps the group alone: every word of the group is the row's. -/
theorem decodeByTable_of_groupMask {w : Word} {g : Nat} {r : OpcodeRow} (hg : (fields w).group.toNat = g)
    (hrows : rowsOfGroup g = [r]) (hmask : r.mask = 0xF000#16) : decodeByTable w = some (r.instr (fields w)) := by
  have hsel : r.selects w = true := OpcodeRow.selects_of_groupMask hg (hrows ▸ List.mem_singleton_self r) hmask
  rw [decodeByTable_eq_find?_rowsOfGroup hg, hrows, List.find?_singleton, if_pos hsel, Option.map_some]

/-! Groups with function codes: `n` in format XY, `kk` in format X (30_encoding.md R57). -/

/-- The instruction of the first of `rows` whose match has the function code of the fields `f`. -/
def firstWithCode (code : Fields → Nat) (rows : List OpcodeRow) (f : Fields) : Option Instr :=
  (rows.find? (fun r => code (fields r.value) == code f)).map (·.instr f)

theorem firstWithCode_eq_none {code : Fields → Nat} {rows : List OpcodeRow} {f : Fields}
    (h : code f ∉ rows.map (fun r => code (fields r.value))) : firstWithCode code rows f = none := by
  have hnone : rows.find? (fun r => code (fields r.value) == code f) = none :=
    List.find?_eq_none.2 fun r hr hcode => h (List.mem_map.2 ⟨r, hr, beq_iff_eq.1 hcode⟩)
  rw [firstWithCode, hnone, Option.map_none]

/-- Where every mask of a group keeps the group and the function code, the code decides. -/
theorem decodeByTable_of_codeMask {code : Fields → Nat} {m : Word} {w : Word} {g : Nat}
    (hcode : ∀ v w : Word, v &&& m = w &&& m ↔
      (fields v).group.toNat = (fields w).group.toNat ∧ code (fields v) = code (fields w))
    (hg : (fields w).group.toNat = g) (hmask : ∀ r ∈ rowsOfGroup g, r.mask = m) :
    decodeByTable w = firstWithCode code (rowsOfGroup g) (fields w) := by
  rw [decodeByTable_eq_find?_rowsOfGroup hg, firstWithCode]
  congr 1
  refine List.find?_congr fun r hr => ?_
  obtain ⟨hmem, hrg⟩ := mem_rowsOfGroup.1 hr
  rw [Bool.eq_iff_iff, OpcodeRow.selects_iff_masked hmem, hmask r hr, hcode, beq_iff_eq]
  exact and_iff_right (hrg.trans hg.symm)

/-- Where the masks are those of format XY, `n` decides. -/
theorem decodeByTable_of_groupNMask {w : Word} {g : Nat} (hg : (fields w).group.toNat = g)
    (hmask : ∀ r ∈ rowsOfGroup g, r.mask = 0xF00F#16) :
    decodeByTable w = firstWithCode (·.n.toNat) (rowsOfGroup g) (fields w) :=
  decodeByTable_of_codeMask and_groupNMask_eq_iff hg hmask

/-- Where the masks are those of format X, `kk` decides. -/
theorem decodeByTable_of_groupKkMask {w : Word} {g : Nat} (hg : (fields w).group.toNat = g)
    (hmask : ∀ r ∈ rowsOfGroup g, r.mask = 0xF0FF#16) :
    decodeByTable w = firstWithCode (·.kk.toNat) (rowsOfGroup g) (fields w) :=
  decodeByTable_of_codeMask and_groupKkMask_eq_iff hg hmask

theorem decodeGroup8_eq_firstWithCode (f : Fields) :
    decodeGroup8 f = firstWithCode (·.n.toNat) (rowsOfGroup 0x8) f := by
  unfold decodeGroup8
  split
  case h_10 =>
    refine (firstWithCode_eq_none ?_).symm
    show f.n.toNat ∉ [0, 1, 2, 3, 4, 5, 6, 7, 0xE]
    simp only [List.mem_cons, List.not_mem_nil, or_false, imp_false] at *
    omega
  all_goals
    next h => rw [firstWithCode, h]; rfl

theorem decodeGroupE_eq_firstWithCode (f : Fields) :
    decodeGroupE f = firstWithCode (·.kk.toNat) (rowsOfGroup 0xE) f := by
  unfold decodeGroupE
  split
  case h_3 =>
    refine (firstWithCode_eq_none ?_).symm
    show f.kk.toNat ∉ [0x9E, 0xA1]
    simp only [List.mem_cons, List.not_mem_nil, or_false, imp_false] at *
    omega
  all_goals
    next h => rw [firstWithCode, h]; rfl

theorem decodeGroupF_eq_firstWithCode (f : Fields) :
    decodeGroupF f = firstWithCode (·.kk.toNat) (rowsOfGroup 0xF) f := by
  unfold decodeGroupF
  split
  case h_10 =>
    refine (firstWithCode_eq_none ?_).symm
    show f.kk.toNat ∉ [0x07, 0x0A, 0x15, 0x18, 0x1E, 0x29, 0x33, 0x55, 0x65]
    simp only [List.mem_cons, List.not_mem_nil, or_false, imp_false] at *
    omega
  all_goals
    next h => rw [firstWithCode, h]; rfl

/-- A group of one row whose function code `n` is zero (groups 5 and 9). -/
theorem ite_n_eq_firstWithCode {f : Fields} {r : OpcodeRow} (hn : (fields r.value).n = 0#4) :
    (if f.n = 0#4 then some (r.instr f) else none) = firstWithCode (·.n.toNat) [r] f := by
  rw [firstWithCode, List.find?_singleton, hn]
  split
  next h => simp [h]
  next h =>
    have hne : (0#4).toNat ≠ f.n.toNat := fun hz => h (BitVec.eq_of_toNat_eq hz.symm)
    rw [if_neg (by simpa using hne), Option.map_none]

/-! Group 0, where CLS and RET stand before SYS. -/

theorem eq_encNNN_iff {w : Word} {g : BitVec 4} {a : Addr} (hg : (fields w).group = g) :
    w = encNNN g a ↔ (fields w).nnn = a := by
  constructor
  · rintro rfl
    rw [encNNN_eq_addrWord]
    exact (fields_addrWord g.isLt a).2
  · rintro rfl
    rw [← hg, encNNN_fields]

theorem decodeByTable_of_group0 {w : Word} (hg : (fields w).group.toNat = 0) :
    decodeByTable w = some (decodeGroup0 (fields w)) := by
  have hword (a : Addr) : w = encNNN 0x0#4 a ↔ (fields w).nnn = a := eq_encNNN_iff (BitVec.eq_of_toNat_eq hg)
  unfold decodeGroup0
  split
  next hcls => rw [(hword _).2 hcls]; rfl
  next hcls =>
    split
    next hret => rw [(hword _).2 hret]; rfl
    next hret =>
      have hrows : rowsOfGroup 0x0 =
          [⟨0xFFFF, 0x00E0, fun _ => .cls⟩, ⟨0xFFFF, 0x00EE, fun _ => .ret⟩, ⟨0xF000, 0x0000, fun f => .sys f.nnn⟩] := rfl
      rw [decodeByTable_eq_find?_rowsOfGroup hg, hrows, List.find?_cons_of_neg, List.find?_cons_of_neg,
        List.find?_cons_of_pos, Option.map_some]
      · exact OpcodeRow.selects_of_groupMask hg (by simp [hrows]) rfl
      · exact fun h => hret ((hword 0x0EE).1 (OpcodeRow.eq_value_of_selects rfl h))
      · exact fun h => hcls ((hword 0x0E0).1 (OpcodeRow.eq_value_of_selects rfl h))

/-- The dispatch on the fields, group by group, is the search of the map. -/
theorem decode_eq_decodeByTable (w : Word) : decode w = decodeByTable w := by
  unfold decode decodeFields
  split
  case h_1 hg => exact (decodeByTable_of_group0 hg).symm
  case h_6 hg =>
    rw [decodeByTable_of_groupNMask hg (by decide)]
    exact ite_n_eq_firstWithCode (r := ⟨0xF00F, 0x5000, fun f => .seReg f.x f.y⟩) rfl
  case h_9 hg => rw [decodeByTable_of_groupNMask hg (by decide), decodeGroup8_eq_firstWithCode]
  case h_10 hg =>
    rw [decodeByTable_of_groupNMask hg (by decide)]
    exact ite_n_eq_firstWithCode (r := ⟨0xF00F, 0x9000, fun f => .sneReg f.x f.y⟩) rfl
  case h_15 hg => rw [decodeByTable_of_groupKkMask hg (by decide), decodeGroupE_eq_firstWithCode]
  case h_16 hg => rw [decodeByTable_of_groupKkMask hg (by decide), decodeGroupF_eq_firstWithCode]
  case h_17 =>
    have := (fields w).group.isLt
    simp only [imp_false] at *
    omega
  all_goals
    next hg => exact (decodeByTable_of_groupMask hg rfl rfl).symm

/-! Overlaps. -/

/-- Two rows that select one word agree on the bits both masks keep. -/
theorem OpcodeRow.value_and_mask_eq_of_selects {p q : OpcodeRow} {w : Word} (hp : p.selects w = true)
    (hq : q.selects w = true) : p.value &&& q.mask = q.value &&& p.mask := by
  rw [← selects_iff.1 hp, ← selects_iff.1 hq, BitVec.and_assoc, BitVec.and_assoc, BitVec.and_comm p.mask]

/-- Only SYS, the row 2, agrees so with an earlier row, and that is CLS or RET. -/
theorem opcodeTable_overlaps : ∀ a b : Fin opcodeTable.length, a < b →
    opcodeTable[a].value &&& opcodeTable[b].mask = opcodeTable[b].value &&& opcodeTable[a].mask →
    b.val = 2 ∧ opcodeTable[a].mask = 0xFFFF#16 ∧
      (opcodeTable[a].value = 0x00E0#16 ∨ opcodeTable[a].value = 0x00EE#16) := by
  decide

theorem decode_addrWord_group0 {nnn : Addr} (hcls : nnn ≠ 0x0E0) (hret : nnn ≠ 0x0EE) :
    decode (addrWord 0x0 nnn) = some (.sys nnn) := by
  obtain ⟨f, hdecode, hgroup, rfl⟩ := decode_addrWord 0#4 nnn
  calc decode (addrWord 0x0 f.nnn) = decodeFields f := hdecode
    _ = some (decodeGroup0 f) := by rw [decodeFields, hgroup]; rfl
    _ = some (.sys f.nnn) := congrArg some ((if_neg hcls).trans (if_neg hret))

/-- Settles O4: group by group for the search, and by the bits that two masks share for the overlaps. -/
theorem decodeSelectsFirstMatchingRow : Obligations.DecodeSelectsFirstMatchingRow := by
  refine ⟨decode_eq_decodeByTable, ⟨rfl, rfl, fun nnn => decode_addrWord_group0⟩, ?overlap⟩
  case overlap =>
    intro w a b p q hab hp hq hpw hqw
    obtain ⟨ha, rfl⟩ := List.getElem?_eq_some_iff.1 hp
    obtain ⟨hb, rfl⟩ := List.getElem?_eq_some_iff.1 hq
    obtain ⟨hsys, hmask, hvalue⟩ :=
      opcodeTable_overlaps ⟨a, ha⟩ ⟨b, hb⟩ hab (OpcodeRow.value_and_mask_eq_of_selects hpw hqw)
    rw [OpcodeRow.eq_value_of_selects hmask hpw]
    exact ⟨hsys, hvalue⟩

end Sys2Proof
end

section
/-!
PROOFS. The execution cycle (40_execution_cycle.md R68, R70): a Step on a running core whose pc can be fetched from.
-/

namespace Sys2Proof.Machine

theorem State.canFetch_eq_true {s : State} (hpc : s.pc.toNat ≤ 0xFFE) : s.canFetch = true := decide_eq_true hpc

/-- A Step whose word at pc decodes runs the instruction on the state with its `rnd` at the input and pc advanced. -/
theorem stepOp_of_decode_eq_some {rnd : Byte} {s : State} {i : Instr} (hrunning : s.status = .running)
    (hpc : s.pc.toNat ≤ 0xFFE) (hdecode : decode (s.wordAt s.pc.toNat) = some i) :
    stepOp rnd s = exec i (s.beginInstr rnd) := by
  have hfetch : decode s.fetchWord = some i := by rw [State.fetchWord_eq_wordAt, hdecode]
  simp only [stepOp, hrunning, State.canFetch_eq_true hpc, if_true, hfetch]

/-- Settles O6: the word the fetch builds is the big-endian word at pc, and `beginInstr` advances pc before the effect. -/
theorem stepAdvancesPcThenActs : Obligations.StepAdvancesPcThenActs :=
  fun _ _ _ hrunning hpc hdecode => stepOp_of_decode_eq_some hrunning hpc hdecode

end Sys2Proof.Machine
end

section
/-!
PROOFS. Control flow (41_control_flow.md): the words of the jumps and skips, the frames of a changed pc and of a pop, and the
effects of SYS, RET, the jumps and the skips.
-/

namespace Sys2Proof.Machine

/-! Decoding a whole format: what the dispatch gives for a group's fields, its words decode to. -/

theorem decode_addrWord_eq_some {g : BitVec 4} {mk : Addr → Instr}
    (h : ∀ f : Fields, f.group.toNat = g.toNat → decodeFields f = some (mk f.nnn)) (nnn : Addr) :
    decode (addrWord g.toNat nnn) = some (mk nnn) := by
  obtain ⟨f, hdecode, hgroup, rfl⟩ := decode_addrWord g nnn
  exact hdecode.trans (h f hgroup)

theorem decode_byteWord_eq_some {g : BitVec 4} {mk : RegIdx → Byte → Instr}
    (h : ∀ f : Fields, f.group.toNat = g.toNat → decodeFields f = some (mk f.x f.kk)) (x : RegIdx) (kk : Byte) :
    decode (byteWord g.toNat x kk) = some (mk x kk) := by
  obtain ⟨f, hdecode, hgroup, rfl, rfl⟩ := decode_byteWord g x kk
  exact hdecode.trans (h f hgroup)

theorem decode_nibbleWord_eq_some {g n : BitVec 4} {mk : RegIdx → RegIdx → Instr}
    (h : ∀ f : Fields, f.group.toNat = g.toNat → f.n = n → decodeFields f = some (mk f.x f.y)) (x y : RegIdx) :
    decode (nibbleWord g.toNat x y n) = some (mk x y) := by
  obtain ⟨f, hdecode, hgroup, rfl, rfl, hn⟩ := decode_nibbleWord g x y n
  exact hdecode.trans (h f hgroup hn)

section decodeFields
variable {f : Fields}

theorem decodeFields_group1 (h : f.group.toNat = 0x1) : decodeFields f = some (.jp f.nnn) := by
  rw [decodeFields, h]; rfl

theorem decodeFields_group3 (h : f.group.toNat = 0x3) : decodeFields f = some (.seImm f.x f.kk) := by
  rw [decodeFields, h]; rfl

theorem decodeFields_group4 (h : f.group.toNat = 0x4) : decodeFields f = some (.sneImm f.x f.kk) := by
  rw [decodeFields, h]; rfl

theorem decodeFields_group5 (h : f.group.toNat = 0x5) (hn : f.n = 0#4) : decodeFields f = some (.seReg f.x f.y) := by
  rw [decodeFields, h]; exact if_pos hn

theorem decodeFields_group9 (h : f.group.toNat = 0x9) (hn : f.n = 0#4) : decodeFields f = some (.sneReg f.x f.y) := by
  rw [decodeFields, h]; exact if_pos hn

theorem decodeFields_groupB (h : f.group.toNat = 0xB) : decodeFields f = some (.jpV0 f.nnn) := by
  rw [decodeFields, h]; rfl

end decodeFields

/-! Frames: a state that is left as it was, a changed pc, a popped entry. -/

section frames
variable (s : State)

theorem SameExcept.refl (w : List Part) : SameExcept w s s := by
  constructor
  case stack => exact fun _ => ⟨rfl, rfl⟩
  case host => exact ⟨rfl, rfl, rfl, rfl⟩
  all_goals intros; rfl

theorem State.setPc_sameExcept (a : Word) : SameExcept [.pc] s (s.setPc a) := by
  constructor
  case pc => exact fun h => absurd (List.mem_singleton_self Part.pc) h
  case stack => exact fun _ => ⟨rfl, rfl⟩
  case host => exact ⟨rfl, rfl, rfl, rfl⟩
  all_goals intros; rfl

theorem State.skipIf_sameExcept (c : Bool) : SameExcept [.pc] s (s.skipIf c) := by
  cases c with
  | false => exact SameExcept.refl s [.pc]
  | true => exact s.setPc_sameExcept (s.pc + 2)

/-- Only the depth and pc move when an entry is popped into pc. -/
theorem State.setSp_setPc_sameExcept (n : Fin 17) (a : Word) :
    SameExcept [.stack, .pc] s ({ s with sp := n }.setPc a) := by
  constructor
  case pc | stack => simp
  case host => exact ⟨rfl, rfl, rfl, rfl⟩
  all_goals intros; rfl

end frames

/-! The targets of the jumps, and the pc a skip leaves. -/

theorem zextAddr_toNat (nnn : Addr) : (zextAddr nnn).toNat = nnn.toNat :=
  BitVec.toNat_setWidth_of_le (by decide)

/-- The target of `JP V0` is the sum itself: at most 0x10FE, it fits 16 bits (R85). -/
theorem State.v0Target_toNat (s : State) (nnn : Addr) : (s.v0Target nnn).toNat = nnn.toNat + (s.getV 0).toNat := by
  have := nnn.isLt
  have := (s.getV 0).isLt
  simp only [State.v0Target, u16, BitVec.toNat_ofNat]
  omega

/-- A skip on a test of `p` advances pc exactly where `p` holds, and changes nothing but pc. -/
theorem State.skipIf_of_iff (s : State) {c : Bool} {p : Prop} [Decidable p] (h : c = true ↔ p) :
    (s.skipIf c).pc = (if p then s.pc + 2 else s.pc) ∧ SameExcept [.pc] s (s.skipIf c) :=
  ⟨(s.skipIf_pc c).trans (if_congr h rfl rfl), s.skipIf_sameExcept c⟩

/-! RET on a stack with entries and on an empty one. -/

theorem State.pop?_of_sp_pos {s : State} (h : 0 < s.sp.val) :
    s.pop? = some (s.stack[s.sp.val - 1], { s with sp := ⟨s.sp.val - 1, by omega⟩ }) := dif_pos h

theorem exec_ret_of_pop?_eq_some {s t : State} {a : Word} (h : s.pop? = some (a, t)) :
    exec .ret s = .next (t.setPc a) := by
  simp only [exec, execRet, h]

theorem exec_ret_of_pop?_eq_none {s : State} (h : s.pop? = none) : exec .ret s = .next s := by
  simp only [exec, execRet, h]

/-- Settles O15: by whether the stack has an entry to pop. -/
theorem retPopsIntoPcOrDoesNothing : Obligations.RetPopsIntoPcOrDoesNothing := by
  intro s
  refine ⟨rfl, ?pops, ?empty⟩
  case pops =>
    intro hsp
    exact ⟨_, exec_ret_of_pop?_eq_some (State.pop?_of_sp_pos hsp), rfl, rfl, rfl, s.setSp_setPc_sameExcept _ _⟩
  case empty =>
    intro hsp
    exact ⟨s, exec_ret_of_pop?_eq_none (State.pop?_eq_none.2 hsp), SameExcept.refl s []⟩

/-- Settles O14: the words of group 0 that are not CLS or RET are SYS, and SYS keeps the state. -/
theorem sysDoesNothing : Obligations.SysDoesNothing :=
  fun _ s => ⟨decode_addrWord_group0, s, rfl, SameExcept.refl s []⟩

/-- Settles O16: both jumps are one write of pc, and neither target is reduced. -/
theorem jumpsSetPc : Obligations.JumpsSetPc := by
  intro nnn s
  refine ⟨⟨?jpWord, _, rfl, ?jpTarget, s.setPc_sameExcept _⟩, ?jpV0Word, _, rfl, ?jpV0Target, s.setPc_sameExcept _⟩
  case jpWord => exact decode_addrWord_eq_some (g := 0x1#4) (fun _ => decodeFields_group1) nnn
  case jpTarget => exact zextAddr_toNat nnn
  case jpV0Word => exact decode_addrWord_eq_some (g := 0xB#4) (fun _ => decodeFields_groupB) nnn
  case jpV0Target => exact s.v0Target_toNat nnn

/-- Settles O18: each of the four is a skip on its comparison. -/
theorem skipsCompareRegisters : Obligations.SkipsCompareRegisters := by
  intro x y kk s
  refine ⟨⟨?seImm, _, rfl, s.skipIf_of_iff beq_iff_eq⟩, ⟨?sneImm, _, rfl, s.skipIf_of_iff bne_iff_ne⟩,
    ⟨?seReg, _, rfl, s.skipIf_of_iff beq_iff_eq⟩, ?sneReg, _, rfl, s.skipIf_of_iff bne_iff_ne⟩
  case seImm => exact decode_byteWord_eq_some (g := 0x3#4) (fun _ => decodeFields_group3) x kk
  case sneImm => exact decode_byteWord_eq_some (g := 0x4#4) (fun _ => decodeFields_group4) x kk
  case seReg => exact decode_nibbleWord_eq_some (g := 0x5#4) (fun _ => decodeFields_group5) x y
  case sneReg => exact decode_nibbleWord_eq_some (g := 0x9#4) (fun _ => decodeFields_group9) x y

end Sys2Proof.Machine
end

section
/-!
PROOFS. Registers and arithmetic (42_alu.md): the words of the ALU instructions, what a write of one register and a write of
a result with its flag leave, and the results and flags as arithmetic on the registers' values.
-/

namespace Sys2Proof.Machine

/-! Decoding the ALU words. -/

section decodeFields
variable {f : Fields}

theorem decodeFields_group6 (h : f.group.toNat = 0x6) : decodeFields f = some (.ldImm f.x f.kk) := by
  rw [decodeFields, h]; rfl

theorem decodeFields_group7 (h : f.group.toNat = 0x7) : decodeFields f = some (.addImm f.x f.kk) := by
  rw [decodeFields, h]; rfl

theorem decodeFields_group8 (h : f.group.toNat = 0x8) : decodeFields f = decodeGroup8 f := by
  rw [decodeFields, h]; rfl

theorem decodeFields_groupC (h : f.group.toNat = 0xC) : decodeFields f = some (.rnd f.x f.kk) := by
  rw [decodeFields, h]; rfl

end decodeFields

/-- What group 8 gives for the function code `n`, its words `8xyn` decode to. -/
theorem decode_nibbleWord_group8 {n : BitVec 4} {mk : RegIdx → RegIdx → Instr}
    (h : ∀ f : Fields, decodeGroup8 { f with n := n } = some (mk f.x f.y)) (x y : RegIdx) :
    decode (nibbleWord 0x8 x y n) = some (mk x y) := by
  refine decode_nibbleWord_eq_some (g := 0x8#4) (fun f hgroup hn => ?_) x y
  subst hn
  exact (decodeFields_group8 hgroup).trans (h f)

/-! A write of one register, and of a result with its flag: the registers and the frame. -/

section frames
variable (s : State) (x : RegIdx)

theorem State.with_v_sameExcept (v : Vector Byte 16) : SameExcept [.regs] s { s with v := v } := by
  constructor
  case regs => exact fun h => absurd (List.mem_singleton_self Part.regs) h
  case stack => exact fun _ => ⟨rfl, rfl⟩
  case host => exact ⟨rfl, rfl, rfl, rfl⟩
  all_goals intros; rfl

theorem State.setV_frame (b : Byte) : OnlyRegs [x] s (s.setV x b) ∧ SameExcept [.regs] s (s.setV x b) :=
  ⟨fun _ hj => s.getV_setV_ne (List.ne_of_not_mem_cons hj) b, s.with_v_sameExcept _⟩

theorem State.setVFlag_frame (b f : Byte) :
    OnlyRegs [x, 0xF] s (s.setVFlag x b f) ∧ SameExcept [.regs] s (s.setVFlag x b f) := by
  refine ⟨fun j hj => ?regs, s.with_v_sameExcept _⟩
  case regs =>
    obtain ⟨hx, hvf⟩ : j ≠ x ∧ j ≠ vf := by simpa [vf] using hj
    rw [s.getV_setVFlag, if_neg hvf, if_neg hx]

/-- VF holds the flag, also where it is the destination (40_execution_cycle.md R76). -/
@[simp] theorem State.getV_setVFlag_vf (b f : Byte) : (s.setVFlag x b f).getV 0xF = f :=
  s.getV_setVFlag x vf b f

variable {x} in
theorem State.getV_setVFlag_same (hx : x ≠ 0xF) (b f : Byte) : (s.setVFlag x b f).getV x = b :=
  (s.getV_setVFlag x x b f).trans ((if_neg hx).trans (if_pos rfl))

end frames

/-- An instruction that is one write of `V[x]`. -/
theorem exec_of_setV {i : Instr} {s : State} {x : RegIdx} {b : Byte} (h : exec i s = .next (s.setV x b)) :
    ∃ t, exec i s = .next t ∧ t.getV x = b ∧ OnlyRegs [x] s t ∧ SameExcept [.regs] s t :=
  ⟨_, h, s.getV_setV_same x b, s.setV_frame x b⟩

/-! Results and flags as arithmetic (42_alu.md R86). -/

section arithmetic
variable (a b src : Byte)

theorem sum_toNat : (sum a b).toNat = (a.toNat + b.toNat) % 256 := BitVec.toNat_ofNat _ _

/-- The difference is the exact one modulo 256; the model adds 256 first, since it subtracts naturals. -/
theorem difference_toNat : ((difference a b).toNat : Int) = (a.toNat - b.toNat : Int) % 256 := by
  have := b.isLt
  simp only [difference, u8, BitVec.toNat_ofNat]
  omega

theorem shiftedRight_eq : shiftedRight src = src >>> 1 := by
  apply BitVec.eq_of_toNat_eq
  have := src.isLt
  simp only [shiftedRight, u8, BitVec.toNat_ofNat, BitVec.toNat_ushiftRight, Nat.shiftRight_eq_div_pow]
  omega

theorem shiftedLeft_eq : shiftedLeft src = src <<< 1 := by
  apply BitVec.eq_of_toNat_eq
  simp only [shiftedLeft, u8, BitVec.toNat_ofNat, BitVec.toNat_shiftLeft, Nat.shiftLeft_eq, pow_one]

theorem flagByte_decide (p : Prop) [Decidable p] : flagByte (decide p) = if p then 1 else 0 :=
  if_congr decide_eq_true_iff rfl rfl

theorem flagByte_toNat (c : Bool) : (flagByte c).toNat = c.toNat := by
  cases c <;> rfl

/-- A bit as a flag is that bit of the number. -/
theorem flagByte_getLsbD_toNat (k : Nat) : (flagByte (src.getLsbD k)).toNat = src.toNat / 2 ^ k % 2 :=
  (flagByte_toNat _).trans (Nat.toNat_testBit src.toNat k)

theorem flagByte_shiftedOutRight_toNat : (flagByte (shiftedOutRight src)).toNat = src.toNat % 2 := by
  rw [shiftedOutRight, flagByte_getLsbD_toNat, pow_zero, Nat.div_one]

/-- Bit 7 is the top bit of a byte, so nothing stands above it. -/
theorem flagByte_shiftedOutLeft_toNat : (flagByte (shiftedOutLeft src)).toNat = src.toNat / 128 := by
  have := src.isLt
  rw [shiftedOutLeft, flagByte_getLsbD_toNat]
  omega

end arithmetic

/-- What SUB and SUBN leave, for the operands `a` and `b` of their difference (42_alu.md R94, R96). -/
theorem State.setVFlag_difference (s : State) (x : RegIdx) (a b : Byte) :
    let t := s.setVFlag x (difference a b) (flagByte (notBorrow a b))
    t.getV 0xF = (if a.toNat ≥ b.toNat then 1 else 0) ∧
      (x ≠ 0xF → ((t.getV x).toNat : Int) = (a.toNat - b.toNat : Int) % 256) ∧
      OnlyRegs [x, 0xF] s t ∧ SameExcept [.regs] s t := by
  refine ⟨?flag, fun hx => ?result, s.setVFlag_frame x _ _⟩
  case flag => rw [s.getV_setVFlag_vf, notBorrow, flagByte_decide]
  case result => rw [s.getV_setVFlag_same hx, difference_toNat]

/-- Settles O20: each is one write of `V[x]`. -/
theorem immediateFormsWriteOneRegister : Obligations.ImmediateFormsWriteOneRegister := by
  intro x kk s
  refine ⟨⟨?ldWord, exec_of_setV rfl⟩, ?addWord, _, rfl, ?addResult, s.setV_frame x _⟩
  case ldWord => exact decode_byteWord_eq_some (g := 0x6#4) (fun _ => decodeFields_group6) x kk
  case addWord => exact decode_byteWord_eq_some (g := 0x7#4) (fun _ => decodeFields_group7) x kk
  case addResult => rw [s.getV_setV_same, sum_toNat]

/-- Settles O21: each is one write of `V[x]`, and the function code in `n` selects it. -/
theorem copyAndBitwiseFormsSetNoFlag : Obligations.CopyAndBitwiseFormsSetNoFlag := fun x y _ =>
  ⟨⟨decode_nibbleWord_group8 (fun _ => rfl) x y, exec_of_setV rfl⟩,
    ⟨decode_nibbleWord_group8 (fun _ => rfl) x y, exec_of_setV rfl⟩,
    ⟨decode_nibbleWord_group8 (fun _ => rfl) x y, exec_of_setV rfl⟩,
    decode_nibbleWord_group8 (fun _ => rfl) x y, exec_of_setV rfl⟩

/-- Settles O22: the flag is written after the sum, so it stands in VF whatever `x` is. -/
theorem addRegistersSetsCarry : Obligations.AddRegistersSetsCarry := by
  intro x y s
  refine ⟨decode_nibbleWord_group8 (fun _ => rfl) x y, _, rfl, ?flag, fun hx => ?result, s.setVFlag_frame x _ _⟩
  case flag => rw [s.getV_setVFlag_vf, carry, flagByte_decide]
  case result => rw [s.getV_setVFlag_same hx, sum_toNat]

/-- Settles O23: SUBN is SUB with the operands of the difference exchanged. -/
theorem subtractionsSetNotBorrow : Obligations.SubtractionsSetNotBorrow := fun x y s =>
  ⟨⟨decode_nibbleWord_group8 (fun _ => rfl) x y, _, rfl, s.setVFlag_difference x (s.getV x) (s.getV y)⟩,
    decode_nibbleWord_group8 (fun _ => rfl) x y, _, rfl, s.setVFlag_difference x (s.getV y) (s.getV x)⟩

/-- Settles O24: the source of either setting is `State.shiftSource`, and the bit shifted out is bit 0 or bit 7 of it. -/
theorem shiftsSetTheBitShiftedOut : Obligations.ShiftsSetTheBitShiftedOut := by
  rintro x y s src (rfl : src = s.shiftSource x y)
  refine ⟨⟨decode_nibbleWord_group8 (fun _ => rfl) x y, _, rfl, ?shrFlag, fun hx => ?shrResult, s.setVFlag_frame x _ _⟩,
    decode_nibbleWord_group8 (fun _ => rfl) x y, _, rfl, ?shlFlag, fun hx => ?shlResult, s.setVFlag_frame x _ _⟩
  case shrFlag => rw [s.getV_setVFlag_vf, flagByte_shiftedOutRight_toNat]
  case shrResult => rw [s.getV_setVFlag_same hx, shiftedRight_eq]
  case shlFlag => rw [s.getV_setVFlag_vf, flagByte_shiftedOutLeft_toNat]
  case shlResult => rw [s.getV_setVFlag_same hx, shiftedLeft_eq]

/-- Settles O25: a value within the mask is its own masked byte, so it results from itself as `rnd`. -/
theorem randomByteIsMaskedAndEveryMaskedValueOccurs : Obligations.RandomByteIsMaskedAndEveryMaskedValueOccurs := by
  intro x kk s
  refine ⟨?word, exec_of_setV rfl, ?everyValue⟩
  case word => exact decode_byteWord_eq_some (g := 0xC#4) (fun _ => decodeFields_groupC) x kk
  case everyValue =>
    intro b hb
    obtain ⟨t, ht, hresult, -⟩ := exec_of_setV (i := .rnd x kk) (s := { s with rnd := b }) rfl
    exact ⟨b, t, ht, hresult.trans hb⟩

end Sys2Proof.Machine
end

section
/-!
PROOFS. The display (43_display.md): the cells a run of plots flips and the collision it reports, the cells of a sprite and
their closed form, and the effects of CLS and DRW.
-/

namespace Sys2Proof.Machine

/-! Cells: a plot's target by column and row, and that a sprite's pixels have targets of their own. -/

/-- Every cell has a column and a row (10_state.md R24). -/
theorem exists_cellIndex_eq (p : Fin 2048) : ∃ c r, cellIndex c r = p :=
  ⟨⟨p.val % 64, by omega⟩, ⟨p.val / 64, by omega⟩, Fin.ext (by simp only [cellIndex]; omega)⟩

theorem plotTarget_clip_cellIndex {px py : Nat} {c : Fin 64} {r : Fin 32} :
    plotTarget .clip px py = some (cellIndex c r) ↔ px = c.val ∧ py = r.val := by
  simp only [plotTarget_clip, cellIndex]
  omega

theorem plotTarget_wrap_cellIndex {px py : Nat} {c : Fin 64} {r : Fin 32} :
    plotTarget .wrap px py = some (cellIndex c r) ↔ px % 64 = c.val ∧ py % 32 = r.val := by
  simp only [plotTarget_wrap, cellIndex]
  omega

/-- Pixels with one target agree modulo the display's size, under both settings of `DRAW_EDGE`. -/
theorem plotTarget_congr {edge : DrawEdge} {px py qx qy : Nat} {p : Fin 2048} (h : plotTarget edge px py = some p)
    (h' : plotTarget edge qx qy = some p) : px % 64 = qx % 64 ∧ py % 32 = qy % 32 := by
  cases edge with
  | clip =>
    rw [plotTarget_clip] at h h'
    omega
  | wrap =>
    rw [plotTarget_wrap] at h h'
    omega

/-! Canvases: drawing flips a set of cells, and disjoint sets add up. -/

/-- `cv'` is `cv` with exactly the cells of `S` flipped, and it reports a collision where `cv` did or where one of those
cells was set (43_display.md R100 step 4). -/
structure Flips (S : Set (Fin 2048)) (cv cv' : Canvas) : Prop where
  flipped : ∀ p ∈ S, cv'.cells[p.val] = !cv.cells[p.val]
  kept : ∀ p ∉ S, cv'.cells[p.val] = cv.cells[p.val]
  hit : cv'.hit = true ↔ cv.hit = true ∨ ∃ p ∈ S, cv.cells[p.val] = true

section flips
variable {S T : Set (Fin 2048)} {cv cv' cv'' : Canvas}

theorem Flips.refl (cv : Canvas) : Flips ∅ cv cv := by
  constructor <;> simp

/-- No cell is flipped back where the sets are disjoint, so the second run meets its cells as the first found them. -/
theorem Flips.trans (h : Flips S cv cv') (h' : Flips T cv' cv'') (hST : Disjoint S T) : Flips (S ∪ T) cv cv'' := by
  have kept_of_mem : ∀ p ∈ T, cv'.cells[p.val] = cv.cells[p.val] := fun p hp => h.kept p (Set.disjoint_right.1 hST hp)
  constructor
  case flipped =>
    rintro p (hp | hp)
    · rw [h'.kept p (Set.disjoint_left.1 hST hp), h.flipped p hp]
    · rw [h'.flipped p hp, kept_of_mem p hp]
  case kept =>
    intro p hp
    obtain ⟨hS, hT⟩ : p ∉ S ∧ p ∉ T := by simpa using hp
    rw [h'.kept p hT, h.kept p hS]
  case hit =>
    have hT : (∃ p ∈ T, cv'.cells[p.val] = true) ↔ ∃ p ∈ T, cv.cells[p.val] = true :=
      exists_congr fun p => and_congr_right fun hp => by rw [kept_of_mem p hp]
    simp only [h'.hit, h.hit, hT, Set.mem_union, or_and_right, exists_or, or_assoc]

/-- A fold of drawing steps flips the cells of all of them, where no two steps meet. -/
theorem Flips.foldl {α : Type} {f : Canvas → α → Canvas} {S : α → Set (Fin 2048)} (hf : ∀ a cv, Flips (S a) cv (f cv a))
    {l : List α} (hl : l.Pairwise fun a b => Disjoint (S a) (S b)) (cv : Canvas) :
    Flips {p | ∃ a ∈ l, p ∈ S a} cv (l.foldl f cv) := by
  induction l generalizing cv with
  | nil => simpa using Flips.refl cv
  | cons a as ih =>
    obtain ⟨ha, has⟩ := List.pairwise_cons.1 hl
    have hdisjoint : Disjoint (S a) {p | ∃ b ∈ as, p ∈ S b} :=
      Set.disjoint_right.2 fun p ⟨b, hb, hp⟩ => Set.disjoint_right.1 (ha b hb) hp
    have hcells : {p | ∃ b ∈ a :: as, p ∈ S b} = S a ∪ {p | ∃ b ∈ as, p ∈ S b} := by ext; simp
    rw [hcells]
    exact (hf a cv).trans (ih has (f cv a)) hdisjoint

end flips

/-! Sprites: the cells of a pixel, of a row and of a sprite. -/

section sprite
variable (edge : DrawEdge) (cx py : Nat)

/-- The cell of column `k` of the sprite byte `b` on row `py`, none where its bit is clear or the pixel is dropped
(43_display.md R101, R102). -/
def pixelCells (b : Byte) (k : Nat) : Set (Fin 2048) := {p | spriteBit b k = true ∧ plotTarget edge (cx + k) py = some p}

/-- The cells of the sprite byte `b` on row `py`. -/
def byteCells (b : Byte) : Set (Fin 2048) := {p | ∃ k ∈ List.range 8, p ∈ pixelCells edge cx py b k}

theorem plot_flips (px : Nat) (cv : Canvas) : Flips {p | plotTarget edge px py = some p} cv (plot edge px py cv) := by
  constructor
  case flipped => intro p (hp : plotTarget edge px py = some p); simp [plot_cells, hp]
  case kept => intro p (hp : ¬plotTarget edge px py = some p); simp [plot_cells, hp]
  case hit => exact plot_hit edge px py cv

theorem ite_plot_flips (b : Byte) (k : Nat) (cv : Canvas) :
    Flips (pixelCells edge cx py b k) cv (if spriteBit b k then plot edge (cx + k) py cv else cv) := by
  cases hbit : spriteBit b k with
  | true => simpa [pixelCells, hbit] using plot_flips edge py (cx + k) cv
  | false => simpa [pixelCells, hbit] using Flips.refl cv

/-- The eight pixels of a row lie in eight columns, also where they wrap. -/
theorem drawByte_flips (b : Byte) (cv : Canvas) : Flips (byteCells edge cx py b) cv (drawByte edge cx py b cv) := by
  refine Flips.foldl (fun k cv => ite_plot_flips edge cx py b k cv) ?_ cv
  refine List.pairwise_lt_range.imp_of_mem fun {j k} hj hk hjk => Set.disjoint_left.2 ?_
  rintro p ⟨-, hp⟩ ⟨-, hp'⟩
  have hcol := (plotTarget_congr hp hp').1
  rw [List.mem_range] at hj hk
  omega

/-- Bytes drawn on rows that differ modulo the display's height do not meet. -/
theorem byteCells_disjoint {py' : Nat} (h : py % 32 ≠ py' % 32) (b b' : Byte) :
    Disjoint (byteCells edge cx py b) (byteCells edge cx py' b') := by
  refine Set.disjoint_left.2 ?_
  rintro p ⟨_, -, -, hp⟩ ⟨_, -, -, hp'⟩
  exact h (plotTarget_congr hp hp').2

/-- Drawing rows, as a fold over their numbers. -/
theorem drawRows_map_range (n : Nat) (row : Nat → Byte) (cv : Canvas) :
    drawRows edge cx py ((List.range n).map row) cv =
      (List.range n).foldl (fun acc j => drawByte edge cx (py + j) (row j) acc) cv := by
  induction n generalizing py row cv with
  | zero => rfl
  | succ n ih =>
    rw [List.range_succ_eq_map, List.map_cons, List.map_map, drawRows, ih, List.foldl_cons, List.foldl_map]
    simp only [Function.comp_apply, Nat.add_assoc, Nat.add_comm 1]
    rfl

/-- At most 32 rows lie in rows of their own, also where they wrap. -/
theorem drawRows_flips {n : Nat} (hn : n ≤ 32) (row : Nat → Byte) (cv : Canvas) :
    Flips {p | ∃ j ∈ List.range n, p ∈ byteCells edge cx (py + j) (row j)} cv
      (drawRows edge cx py ((List.range n).map row) cv) := by
  rw [drawRows_map_range]
  refine Flips.foldl (fun j cv => drawByte_flips edge cx (py + j) (row j) cv) ?_ cv
  refine List.pairwise_lt_range.imp_of_mem fun {j k} hj hk hjk => byteCells_disjoint edge cx (py + j) ?_ (row j) (row k)
  rw [List.mem_range] at hj hk
  omega

end sprite

/-! DRW's sprite: its cells are those `State.spriteCovers` names, so that decides what DRW flips and reports. -/

section drw
variable (s : State) (x y : RegIdx) (n : BitVec 4)

/-- The cells of the sprite of `DRW Vx, Vy, n`, by the rows and columns that are drawn (43_display.md R100). -/
def State.spriteCells : Set (Fin 2048) :=
  {p | ∃ j ∈ List.range n.toNat,
    p ∈ byteCells s.params.drawEdge (s.spriteCol x) (s.spriteRow y + j) (s.memRead (s.i.toNat + j))}

theorem State.drawnSprite_flips :
    Flips (s.spriteCells x y n) { cells := s.display, hit := false } (s.drawnSprite x y n) :=
  drawRows_flips s.params.drawEdge (s.spriteCol x) (s.spriteRow y) (by omega) (fun j => s.memRead (s.i.toNat + j)) _

theorem State.mem_spriteCells {p : Fin 2048} : p ∈ s.spriteCells x y n ↔
    ∃ j < n.toNat, ∃ k < 8, (s.memRead (s.i.toNat + j)).getLsbD (7 - k) = true ∧
      plotTarget s.params.drawEdge ((s.getV x).toNat % 64 + k) ((s.getV y).toNat % 32 + j) = some p := by
  simp only [State.spriteCells, byteCells, pixelCells, spriteBit, State.spriteCol, State.spriteRow, Set.mem_ofPred_eq,
    List.mem_range]

/-- The pixel drawn on a cell is the one at the cell's offsets from the origin (43_display.md R101, R102). -/
theorem State.cellIndex_mem_spriteCells {c : Fin 64} {r : Fin 32} :
    cellIndex c r ∈ s.spriteCells x y n ↔ s.spriteCovers x y n c r = true := by
  rw [State.mem_spriteCells, State.spriteCovers]
  have hcx : (s.getV x).toNat % 64 < 64 := Nat.mod_lt _ (by decide)
  have hcy : (s.getV y).toNat % 32 < 32 := Nat.mod_lt _ (by decide)
  generalize (s.getV x).toNat % 64 = cx at *
  generalize (s.getV y).toNat % 32 = cy at *
  cases s.params.drawEdge with
  | clip =>
    simp only [plotTarget_clip_cellIndex, Bool.and_eq_true, decide_eq_true_eq]
    constructor
    · rintro ⟨j, hj, k, hk, hbit, hc, hr⟩
      obtain rfl : k = c.val - cx := by omega
      obtain rfl : j = r.val - cy := by omega
      exact ⟨by omega, hbit⟩
    · rintro ⟨hwithin, hbit⟩
      exact ⟨r.val - cy, by omega, c.val - cx, by omega, hbit, by omega, by omega⟩
  | wrap =>
    simp only [plotTarget_wrap_cellIndex, Bool.and_eq_true, decide_eq_true_eq]
    constructor
    · rintro ⟨j, hj, k, hk, hbit, hc, hr⟩
      obtain rfl : k = (c.val + 64 - cx) % 64 := by omega
      obtain rfl : j = (r.val + 32 - cy) % 32 := by omega
      exact ⟨⟨hk, hj⟩, hbit⟩
    · rintro ⟨⟨hcol, hrow⟩, hbit⟩
      exact ⟨_, hrow, _, hcol, hbit, by omega, by omega⟩

theorem State.drawnSprite_cells (c : Fin 64) (r : Fin 32) :
    (s.drawnSprite x y n).cells[(cellIndex c r).val] = (s.pix c r ^^ s.spriteCovers x y n c r) := by
  obtain ⟨flipped, kept, -⟩ := s.drawnSprite_flips x y n
  cases hcovers : s.spriteCovers x y n c r with
  | true =>
    rw [Bool.xor_true]
    exact flipped _ ((s.cellIndex_mem_spriteCells x y n).2 hcovers)
  | false =>
    rw [Bool.xor_false]
    exact kept _ (mt (s.cellIndex_mem_spriteCells x y n).1 (by simp [hcovers]))

theorem State.drawnSprite_hit : (s.drawnSprite x y n).hit = true ↔
    ∃ c r, s.pix c r = true ∧ s.spriteCovers x y n c r = true := by
  rw [(s.drawnSprite_flips x y n).hit]
  constructor
  · rintro (h | ⟨p, hp, hset⟩)
    · cases h
    · obtain ⟨c, r, rfl⟩ := exists_cellIndex_eq p
      exact ⟨c, r, hset, (s.cellIndex_mem_spriteCells x y n).1 hp⟩
  · rintro ⟨c, r, hset, hcovers⟩
    exact .inr ⟨cellIndex c r, (s.cellIndex_mem_spriteCells x y n).2 hcovers, hset⟩

end drw

/-! The word of DRW, its flag, and the frames of a shown display. -/

theorem decodeFields_groupD {f : Fields} (h : f.group.toNat = 0xD) : decodeFields f = some (.drw f.x f.y f.n) := by
  rw [decodeFields, h]; rfl

theorem flagByte_eq_zero_or_one (c : Bool) : flagByte c = 0 ∨ flagByte c = 1 := by
  cases c <;> decide

theorem flagByte_eq_one_iff {c : Bool} : flagByte c = 1 ↔ c = true := by
  cases c <;> decide

section frames
variable (s : State) (d : Vector Bool 2048)

theorem State.showDisplay_sameExcept : SameExcept [.display, .redraw] s (s.showDisplay d) := by
  constructor
  case display | redraw => simp
  case stack => exact fun _ => ⟨rfl, rfl⟩
  case host => exact ⟨rfl, rfl, rfl, rfl⟩
  all_goals intros; rfl

theorem State.getV_vf_setV_showDisplay (b : Byte) : ((s.setV vf b).showDisplay d).getV 0xF = b :=
  s.getV_setV_same vf b

theorem State.setV_showDisplay_sameExcept (x : RegIdx) (b : Byte) :
    SameExcept [.regs, .display, .redraw] s ((s.setV x b).showDisplay d) := by
  constructor
  case regs | display | redraw => simp
  case stack => exact fun _ => ⟨rfl, rfl⟩
  case host => exact ⟨rfl, rfl, rfl, rfl⟩
  all_goals intros; rfl

end frames

/-- Settles O27: CLS shows a display of clear cells. -/
theorem clsClearsDisplay : Obligations.ClsClearsDisplay := by
  intro s
  refine ⟨by decide, _, rfl, fun c r => ?cells, rfl, s.showDisplay_sameExcept _⟩
  case cells => exact Vector.getElem_replicate (cellIndex c r).isLt

/-- Settles O28: no cell is drawn twice, so the drawing loops flip the covered cells and no other, and the cells they meet
are those of the display before. -/
theorem drawFlipsCoveredCells : Obligations.DrawFlipsCoveredCells := by
  intro x y n s
  refine ⟨?word, _, rfl, s.drawnSprite_cells x y n, ?bit, ?collision, rfl, (s.setV_frame vf _).1,
    s.setV_showDisplay_sameExcept _ vf _⟩
  case word =>
    refine decode_nibbleWord_eq_some (g := 0xD#4) (mk := fun x y => .drw x y n) (fun f hgroup hn => ?_) x y
    rw [decodeFields_groupD hgroup, hn]
  case bit => rw [State.getV_vf_setV_showDisplay]; exact flagByte_eq_zero_or_one _
  case collision => rw [State.getV_vf_setV_showDisplay, flagByte_eq_one_iff, s.drawnSprite_hit]

end Sys2Proof.Machine
end

section
/-!
PROOFS. The keypad and timers (44_keypad_timers.md): the words of format X, the key that LD Vx, K takes, the frames of the
timer writes, and the effects of the key and timer instructions.
-/

namespace Sys2Proof.Machine

/-- What the dispatch gives for the group `g` and the function code `kk`, the words `gxkk` of format X decode to. -/
theorem decode_byteWord_of_code {g : BitVec 4} {kk : Byte} {mk : RegIdx → Instr}
    (h : ∀ f : Fields, decodeFields { f with group := g, kk := kk } = some (mk f.x)) (x : RegIdx) :
    decode (byteWord g.toNat x kk) = some (mk x) := by
  obtain ⟨f, hdecode, hgroup, rfl, rfl⟩ := decode_byteWord g x kk
  obtain rfl := BitVec.eq_of_toNat_eq hgroup
  exact hdecode.trans (h f)

/-! The frames of the timer writes: the state as it was, but for the timer written. -/

section frames
variable (s : State) (b : Byte)

theorem State.setDt_sameExcept : SameExcept [.delayTimer] s (s.setDt b) :=
  { SameExcept.refl s [.delayTimer] with delayTimer := fun h => absurd (List.mem_singleton_self Part.delayTimer) h }

theorem State.setSt_sameExcept : SameExcept [.soundTimer] s (s.setSt b) :=
  { SameExcept.refl s [.soundTimer] with soundTimer := fun h => absurd (List.mem_singleton_self Part.soundTimer) h }

end frames

/-! LD Vx, K with a key down and with none. -/

theorem u8_reg_toNat (k : RegIdx) : (u8 k.val).toNat = k.val := by
  simp only [u8, BitVec.toNat_ofNat]
  omega

section keyWait
variable {s : State} {k : RegIdx}

/-- The search finds the least key, since of two least keys neither is below the other. -/
theorem State.leastKey_eq_some_of_least (hk : s.keyDown k = true) (hlow : ∀ j, j < k → s.keyDown j = false) :
    s.leastKey = some k := by
  cases hleast : s.leastKey with
  | none => simp [State.leastKey_eq_none.1 hleast k] at hk
  | some j =>
    obtain ⟨hj, hlow'⟩ := State.leastKey_eq_some hleast
    rcases lt_trichotomy j k with hjk | rfl | hkj
    · simp [hlow j hjk] at hj
    · rfl
    · simp [hlow' k hkj] at hk

theorem exec_ldVxK_of_leastKey_eq_some (x : RegIdx) (h : s.leastKey = some k) :
    exec (.ldVxK x) s = .next (s.setV x (u8 k.val)) := by
  simp only [exec, execLdVxK, h]

theorem exec_ldVxK_of_leastKey_eq_none (x : RegIdx) (h : s.leastKey = none) : exec (.ldVxK x) s = .next s.rewind := by
  simp only [exec, execLdVxK, h]

end keyWait

/-- Settles O31: by whether a key is down; the least one is the key the model's search finds. -/
theorem keyWaitTakesLeastKeyOrRewinds : Obligations.KeyWaitTakesLeastKeyOrRewinds := by
  intro x s
  refine ⟨decode_byteWord_of_code (g := 0xF#4) (fun _ => rfl) x, ?takes, ?rewinds⟩
  case takes =>
    intro k hk hlow
    obtain ⟨t, ht, hresult, hframe⟩ :=
      exec_of_setV (exec_ldVxK_of_leastKey_eq_some x (State.leastKey_eq_some_of_least hk hlow))
    exact ⟨t, ht, by rw [hresult, u8_reg_toNat], hframe⟩
  case rewinds =>
    intro hup
    exact ⟨_, exec_ldVxK_of_leastKey_eq_none x (State.leastKey_eq_none.2 hup), s.rewind_pc, s.setPc_sameExcept _⟩

/-- Settles O30: both are skips on the key that `keyOf` selects, SKNP on its negation. -/
theorem keySkipsTestLowNibbleKey : Obligations.KeySkipsTestLowNibbleKey := by
  intro x s k hk
  obtain rfl : k = keyOf (s.getV x) := Fin.ext hk
  refine ⟨⟨?skpWord, _, rfl, s.skipIf_of_iff Iff.rfl⟩, ?sknpWord, _, rfl, ?sknpSkip⟩
  case skpWord | sknpWord => exact decode_byteWord_of_code (g := 0xE#4) (fun _ => rfl) x
  case sknpSkip =>
    rw [← ite_not]
    exact s.skipIf_of_iff Bool.not_iff_not

/-- Settles O33: each copy is one write of its destination, and `sound_on` is the comparison with 0. -/
theorem timerCopies : Obligations.TimerCopies := by
  intro x s
  refine ⟨⟨?dtReadWord, exec_of_setV rfl⟩, ⟨?dtWriteWord, _, rfl, rfl, s.setDt_sameExcept _⟩,
    ⟨?stWriteWord, _, rfl, rfl, s.setSt_sameExcept _⟩, bne_iff_ne⟩
  case dtReadWord | dtWriteWord | stWriteWord => exact decode_byteWord_of_code (g := 0xF#4) (fun _ => rfl) x

end Sys2Proof.Machine
end

section
/-!
PROOFS. The index register and memory instructions (45_index_memory.md): the word of LD I, the writes of I, what a store of
several bytes leaves, and the registers a load gives.
-/

namespace Sys2Proof.Machine

theorem decodeFields_groupA {f : Fields} (h : f.group.toNat = 0xA) : decodeFields f = some (.ldI f.nnn) := by
  rw [decodeFields, h]; rfl

/-! The frames of a write of I and of a store of several bytes. -/

section frames
variable (s : State)

theorem State.setI_sameExcept (w : Word) : SameExcept [.index] s (s.setI w) :=
  { SameExcept.refl s [.index] with index := fun h => absurd (List.mem_singleton_self Part.index) h }

theorem State.storeBytes_sameExcept (a : Nat) (bytes : List Byte) : SameExcept [.memory] s (s.storeBytes a bytes) := by
  constructor
  case memory => exact fun h => absurd (List.mem_singleton_self Part.memory) h
  case regs => exact fun _ => State.getV_congr (s.storeBytes_v a bytes)
  case display => exact fun _ => State.pix_congr (s.storeBytes_display a bytes)
  all_goals simp

variable {s} in
theorem State.storeBytes_frame (hs : Memory.wf s.params.font s.mem) (a : Nat) (bytes : List Byte) :
    OnlyBytes a bytes.length s (s.storeBytes a bytes) ∧ SameExcept [.memory] s (s.storeBytes a bytes) :=
  ⟨State.peek_storeBytes_other hs a bytes, s.storeBytes_sameExcept a bytes⟩

end frames

/-! The addresses and the digits as numbers. -/

theorem u8_toNat_of_lt {n : Nat} (h : n < 256) : (u8 n).toNat = n := Nat.mod_eq_of_lt h

/-- The glyph address is the sum itself: at most 0x54B, it fits 16 bits (R111). -/
theorem glyphAddress_toNat (b : Byte) : (glyphAddress b).toNat = 0x050 + 5 * b.toNat := by
  have := b.isLt
  simp only [glyphAddress, u16, Config.fontBase, BitVec.toNat_ofNat]
  omega

@[simp] theorem length_bcdDigits (b : Byte) : (bcdDigits b).length = 3 := rfl

/-- Settles O35: each is one write of I, and only the sum of ADD I is reduced. -/
theorem indexWrites : Obligations.IndexWrites := by
  intro x nnn s
  refine ⟨⟨?ldIWord, _, rfl, ?ldIResult, s.setI_sameExcept _⟩, ⟨?addIWord, _, rfl, ?addIResult, s.setI_sameExcept _⟩,
    ?ldFWord, _, rfl, ?ldFResult, s.setI_sameExcept _⟩
  case ldIWord => exact decode_addrWord_eq_some (g := 0xA#4) (fun _ => decodeFields_groupA) nnn
  case addIWord | ldFWord => exact decode_byteWord_of_code (g := 0xF#4) (fun _ => rfl) x
  case ldIResult => exact zextAddr_toNat nnn
  case addIResult => exact BitVec.toNat_ofNat _ _
  case ldFResult => exact glyphAddress_toNat (s.getV x)

/-- Settles O36: the three digits are stored one after another from I, and each is a byte, so none is reduced. -/
theorem bcdStoresDecimalDigits : Obligations.BcdStoresDecimalDigits := by
  intro x s hs
  have hv := (s.getV x).isLt
  have readBack := State.peek_storeBytes hs s.i.toNat (bcdDigits (s.getV x)) (by simp)
  refine ⟨decode_byteWord_of_code (g := 0xF#4) (fun _ => rfl) x, _, rfl, ?hundreds, ?tens, ?ones,
    State.storeBytes_frame hs s.i.toNat (bcdDigits (s.getV x))⟩
  case hundreds => rw [readBack 0 (by simp)]; exact u8_toNat_of_lt (by omega)
  case tens => rw [readBack 1 (by simp)]; exact u8_toNat_of_lt (by omega)
  case ones => rw [readBack 2 (by simp)]; exact u8_toNat_of_lt (by omega)

/-- Settles O37: the list of the registers V0..Vx is stored from I on, and each of its bytes reads back. -/
theorem storeRegistersWritesBytes : Obligations.StoreRegistersWritesBytes := by
  intro x s hs
  have hlen := s.length_regsUpTo x
  refine ⟨decode_byteWord_of_code (g := 0xF#4) (fun _ => rfl) x, _, rfl, fun j hj => ?stored,
    hlen ▸ State.storeBytes_frame hs s.i.toNat (s.regsUpTo x)⟩
  case stored =>
    have hj' : j.val < (s.regsUpTo x).length := hlen ▸ Nat.lt_succ_of_le hj
    rw [State.peek_storeBytes hs _ _ (by omega) _ hj', s.getElem_regsUpTo x j.val hj' j.isLt]

/-- A register after LD Vx, [I] (R114). -/
theorem State.getV_with_loadedRegs (s : State) (a : Nat) (x j : RegIdx) :
    State.getV { s with v := s.loadedRegs a x } j = if j ≤ x then s.peek (ea (a + j.val)) else s.getV j :=
  s.getElem_loadedRegs a x j.val j.isLt

/-- Settles O38: by whether a register is loaded or kept. -/
theorem loadRegistersReadsBytes : Obligations.LoadRegistersReadsBytes := by
  intro x s
  refine ⟨decode_byteWord_of_code (g := 0xF#4) (fun _ => rfl) x, _, rfl, fun j hj => ?loaded, fun j hj => ?kept,
    s.with_v_sameExcept _⟩
  case loaded => rw [s.getV_with_loadedRegs, if_pos hj]
  case kept => rw [s.getV_with_loadedRegs, if_neg (Fin.not_le.2 hj)]

end Sys2Proof.Machine
end

section
/-!
PROOFS. Exceptions and Tick (60_exceptions.md R115 to R131): a Step that faults at the fetch, at the decode or in CALL,
a halted core under the operations of a run, and the countdown of the timers.
-/

namespace Sys2Proof.Machine

/-! A running core that faults. -/

section faults
variable {rnd : Byte} {s : State}

theorem State.canFetch_eq_false (hpc : 0xFFE < s.pc.toNat) : s.canFetch = false := decide_eq_false (Nat.not_le.2 hpc)

/-- A Step that cannot fetch takes `PcOutOfRange` before it takes its `rnd` or advances pc (R118). -/
theorem stepOp_of_pc_out_of_range (hrunning : s.status = .running) (hpc : 0xFFE < s.pc.toNat) :
    stepOp rnd s = .next (s.raiseFault .pcOutOfRange 0 s.pc) := by
  simp only [stepOp, hrunning, State.canFetch_eq_false hpc, Bool.false_eq_true, if_false]

/-- A Step whose word at pc does not decode takes `UnsupportedOpcode` after the pc advance. -/
theorem stepOp_of_decode_eq_none (hrunning : s.status = .running) (hpc : s.pc.toNat ≤ 0xFFE)
    (hdecode : decode (s.wordAt s.pc.toNat) = none) :
    stepOp rnd s = .next ((s.beginInstr rnd).raiseFault .unsupportedOpcode (s.wordAt s.pc.toNat) s.pc) := by
  rw [← State.fetchWord_eq_wordAt] at hdecode ⊢
  simp only [stepOp, hrunning, State.canFetch_eq_true hpc, if_true, hdecode]

end faults

/-- Settles O8: the fetch is refused before the Step has changed anything. -/
theorem fetchBeyondMemoryHalts : Obligations.FetchBeyondMemoryHalts :=
  fun _ _ hrunning hpc => stepOp_of_pc_out_of_range hrunning hpc

/-- Settles O9: the fault is taken on the state with pc advanced, and it reports the word and the pc of the fetch. -/
theorem unsupportedWordHalts : Obligations.UnsupportedWordHalts :=
  fun _ _ hrunning hpc hdecode => stepOp_of_decode_eq_none hrunning hpc hdecode

/-! CALL on a full stack. -/

theorem decodeFields_group2 {f : Fields} (h : f.group.toNat = 0x2) : decodeFields f = some (.call f.nnn) := by
  rw [decodeFields, h]; rfl

theorem decode_addrWord_call (nnn : Addr) : decode (addrWord 0x2 nnn) = some (.call nnn) :=
  decode_addrWord_eq_some (g := 0x2#4) (fun _ => decodeFields_group2) nnn

theorem encode_call (nnn : Addr) : encode (.call nnn) = addrWord 0x2 nnn := encNNN_eq_addrWord 0x2#4 nnn

theorem exec_call_of_push?_eq_none {s : State} (nnn : Addr) (h : s.push? s.pc = none) :
    exec (.call nnn) s = .next (s.raiseFault .stackOverflow (addrWord 0x2 nnn) (s.pc - 2)) := by
  simp only [exec, execCall, h, encode_call]

/-- Settles O10: the push answers none, and the address CALL reports, the advanced pc less 2, is the pc of the fetch. -/
theorem callBeyondDepthSixteenHalts : Obligations.CallBeyondDepthSixteenHalts := by
  intro rnd s nnn hrunning hpc hword hsp
  have hdecode : decode (s.wordAt s.pc.toNat) = some (.call nnn) := by rw [hword, decode_addrWord_call]
  have hfull : (s.beginInstr rnd).push? (s.beginInstr rnd).pc = none := State.push?_eq_none.2 hsp
  have hfaultPc : (s.beginInstr rnd).pc - 2 = s.pc := BitVec.add_sub_cancel s.pc 2
  calc stepOp rnd s
    _ = exec (.call nnn) (s.beginInstr rnd) := stepOp_of_decode_eq_some hrunning hpc hdecode
    _ = .next ((s.beginInstr rnd).raiseFault .stackOverflow (s.wordAt s.pc.toNat) s.pc) := by
      rw [exec_call_of_push?_eq_none nnn hfull, hfaultPc, hword]

/-! A halted core. -/

section halted
variable {s t : State} {code : FaultCode} {opcode faultPc : Word}

theorem stepOp_of_halted (h : s.status = .halted code opcode faultPc) (rnd : Byte) :
    stepOp rnd s = .fault (.halted code opcode faultPc) := by
  simp only [stepOp, h]

theorem tickOp_of_halted (h : s.status = .halted code opcode faultPc) (ns : Nat) :
    tickOp ns s = .fault (.halted code opcode faultPc) := by
  simp only [tickOp, h]

/-- The operations a halted core answers are `SetKeypad` and `AckRedraw` (60_exceptions.md R131, 40_execution_cycle.md
R67). -/
theorem runOp_eq_next_of_halted {op : RunOp} (h : s.status = .halted code opcode faultPc) (hop : runOp op s = .next t) :
    ∃ key redraw, t = { s with key := key, redraw := redraw } := by
  cases op with
  | setKeypad keys => cases hop; exact ⟨keys, s.redraw, rfl⟩
  | ackRedraw => cases hop; exact ⟨s.key, false, rfl⟩
  | step rnd => cases (stepOp_of_halted h rnd).symm.trans hop
  | tick ns => cases (tickOp_of_halted h ns).symm.trans hop

end halted

/-- A sequence of run operations that answers: its first operation does, and the rest does from there. -/
theorem runOps_loaded_cons_eq_next {s u : State} {op : RunOp} {rest : List Operation}
    (h : runOps .loaded s (.run op :: rest) = .next u) :
    ∃ t, runOp op s = .next t ∧ runOps .loaded t rest = .next u := by
  simp only [runOps, Phase.after, applyOperation] at h
  split at h
  next t ht => exact ⟨t, ht, h⟩
  all_goals cases h

/-- Settles O13: by induction on the operations, each of which leaves the status of a halted core. -/
theorem haltedStatusIsKeptUntilReset : Obligations.HaltedStatusIsKeptUntilReset := by
  intro s code opcode faultPc hhalted
  refine ⟨fun ops t hrun => ?kept, s.resetCore, rfl, rfl⟩
  case kept =>
    induction ops generalizing s with
    | nil => cases hrun; rfl
    | cons op ops ih =>
      obtain ⟨u, hop, hrest⟩ := runOps_loaded_cons_eq_next hrun
      obtain ⟨key, redraw, rfl⟩ := runOp_eq_next_of_halted hhalted hop
      exact ih { s with key := key, redraw := redraw } hhalted hrest

/-! Tick on a running core. -/

section tick
variable {s : State} {ns : Nat}

theorem tickOp_of_running (h : s.status = .running) : tickOp ns s = .next (s.ticked ns) := by
  simp only [tickOp, h]

theorem State.ticked_of_effective (h : 60 * ns ≥ 1000000000) :
    s.ticked ns = { s with dt := countDown s.dt, st := countDown s.st, beep := s.st == 1 } :=
  if_pos (decide_eq_true h)

theorem State.ticked_of_not_effective (h : 60 * ns < 1000000000) : s.ticked ns = { s with beep := false } :=
  if_neg (mt of_decide_eq_true (Nat.not_le.2 h))

end tick

/-- Settles O34: by whether the Tick is effective; the beep looks at ST before its decrement. -/
theorem tickCountsDownOnceAndBeeps : Obligations.TickCountsDownOnceAndBeeps := by
  intro ns s hrunning
  refine ⟨s.ticked ns, tickOp_of_running hrunning, fun h => ?effective, fun h => ?early, ?frame⟩
  case effective =>
    rw [State.ticked_of_effective h]
    exact ⟨countDown_toNat s.dt, countDown_toNat s.st, beq_iff_eq⟩
  case early =>
    rw [State.ticked_of_not_effective h]
    exact ⟨rfl, rfl, rfl⟩
  case frame =>
    rcases Nat.lt_or_ge (60 * ns) 1000000000 with h | h
    · rw [State.ticked_of_not_effective h]
    · rw [State.ticked_of_effective h]

end Sys2Proof.Machine
end

section
/-!
PROOFS. SetKeypad and AckRedraw (70_reset_and_hazards.md R142, R143): both answer in every status, each with one field
written.
-/

namespace Sys2Proof.Machine

/-- After `SetKeypad` the key read is the key given (R142). -/
@[simp] theorem State.setKeypad_keyDown (s : State) (keys : Vector Bool 16) (k : RegIdx) :
    (s.setKeypad keys).keyDown k = keys[k.val] := rfl

/-- `SetKeypad` answers without a look at the status, so on a halted core too. -/
theorem runOp_setKeypad (s : State) (keys : Vector Bool 16) : runOp (.setKeypad keys) s = .next (s.setKeypad keys) := rfl

/-- `AckRedraw` answers without a look at the status, so on a halted core too. -/
theorem runOp_ackRedraw (s : State) : runOp .ackRedraw s = .next s.ackRedraw := rfl

/-- Settles O52: each operation answers in every status, and the state it answers with is one record update. -/
theorem keypadAndRedrawOperations : Obligations.KeypadAndRedrawOperations := by
  intro s keys
  refine ⟨⟨s.setKeypad keys, runOp_setKeypad s keys, s.setKeypad_keyDown keys, ?keypadFrame⟩,
    ⟨s.ackRedraw, runOp_ackRedraw s, ?redrawFrame⟩⟩
  case keypadFrame => rw [State.setKeypad_key, State.setKeypad]
  case redrawFrame => rw [State.ackRedraw]

end Sys2Proof.Machine
end

section
/-!
PROOFS. The encoder and the decoder (30_encoding.md R56 to R61): the words of each format decode by their own fields, a word
is rebuilt from its fields, and which fields select no instruction.
-/

namespace Sys2Proof

open Machine

/-! Decoding an encoded word: what the dispatch gives for the format's own fields, whatever the others hold. -/

section formats
variable {i : Instr} {g n : BitVec 4} {x y : RegIdx} {kk : Byte} {nnn : Addr}

theorem decode_encNNN (h : ∀ x y n kk, decodeFields ⟨g, x, y, n, kk, nnn⟩ = some i) : decode (encNNN g nnn) = some i := by
  obtain ⟨f, hdecode, hgroup, rfl⟩ := decode_addrWord g nnn
  obtain rfl := BitVec.eq_of_toNat_eq hgroup
  rw [encNNN_eq_addrWord, hdecode]
  exact h f.x f.y f.n f.kk

theorem decode_encXKK (h : ∀ y n nnn, decodeFields ⟨g, x, y, n, kk, nnn⟩ = some i) : decode (encXKK g x kk) = some i := by
  obtain ⟨f, hdecode, hgroup, rfl, rfl⟩ := decode_byteWord g x kk
  obtain rfl := BitVec.eq_of_toNat_eq hgroup
  rw [encXKK_eq_byteWord, hdecode]
  exact h f.y f.n f.nnn

theorem decode_encXYN (h : ∀ kk nnn, decodeFields ⟨g, x, y, n, kk, nnn⟩ = some i) : decode (encXYN g x y n) = some i := by
  obtain ⟨f, hdecode, hgroup, rfl, rfl, rfl⟩ := decode_nibbleWord g x y n
  obtain rfl := BitVec.eq_of_toNat_eq hgroup
  rw [encXYN_eq_nibbleWord, hdecode]
  exact h f.kk f.nnn

end formats

/-- Settles O2: by the format of the instruction's word; SYS is the one whose operand can select another row (R60). -/
theorem decodeInvertsEncode : Obligations.DecodeInvertsEncode := by
  intro i hi
  cases i with
  | cls | ret => rfl
  | sys nnn =>
    obtain ⟨hcls, hret⟩ : nnn ≠ 0x0E0#12 ∧ nnn ≠ 0x0EE#12 := by simpa [WellFormed] using hi
    rw [encode, encNNN_eq_addrWord]
    exact decode_addrWord_group0 hcls hret
  | jp | call | ldI | jpV0 => exact decode_encNNN fun _ _ _ _ => rfl
  | seImm | sneImm | ldImm | addImm | rnd | skp | sknp | ldVxDt | ldVxK | ldDtVx | ldStVx | addI | ldF | ldB | stRegs
  | ldRegs => exact decode_encXKK fun _ _ _ => rfl
  | seReg | ldReg | orReg | andReg | xorReg | addReg | subReg | shr | subnReg | shl | sneReg | drw =>
    exact decode_encXYN fun _ _ => rfl

/-! Encoding a decoded word: the word is rebuilt from the group and the fields its format keeps. -/

section rebuild
variable {w : Word} {g : BitVec 4} (hg : (fields w).group.toNat = g.toNat)
include hg

theorem encNNN_of_group : encNNN g (fields w).nnn = w := by
  rw [← BitVec.eq_of_toNat_eq hg, encNNN_fields]

theorem encXKK_of_group : encXKK g (fields w).x (fields w).kk = w := by
  rw [← BitVec.eq_of_toNat_eq hg, encXKK_fields]

theorem encXYN_of_group : encXYN g (fields w).x (fields w).y (fields w).n = w := by
  rw [← BitVec.eq_of_toNat_eq hg, encXYN_fields]

theorem encXKK_of_code {kk : Byte} (hkk : (fields w).kk.toNat = kk.toNat) : encXKK g (fields w).x kk = w := by
  rw [← BitVec.eq_of_toNat_eq hkk, encXKK_of_group hg]

theorem encXYN_of_code {n : BitVec 4} (hn : (fields w).n.toNat = n.toNat) : encXYN g (fields w).x (fields w).y n = w := by
  rw [← BitVec.eq_of_toNat_eq hn, encXYN_of_group hg]

end rebuild

section groups
variable {w : Word} {i : Instr}

theorem encode_of_decodeGroup0 (hg : (fields w).group.toNat = 0x0) (h : decodeGroup0 (fields w) = i) :
    encode i = w ∧ WellFormed i = true := by
  have hword : encNNN 0x0#4 (fields w).nnn = w := encNNN_of_group hg
  unfold decodeGroup0 at h
  split at h
  next hcls => subst h; exact ⟨by rw [← hword, hcls]; rfl, rfl⟩
  next hcls =>
    split at h
    next hret => subst h; exact ⟨by rw [← hword, hret]; rfl, rfl⟩
    next hret => subst h; exact ⟨hword, by simp [WellFormed, hcls, hret]⟩

theorem encode_of_decodeGroup8 (hg : (fields w).group.toNat = 0x8) (h : decodeGroup8 (fields w) = some i) :
    encode i = w ∧ WellFormed i = true := by
  unfold decodeGroup8 at h
  split at h
  case h_10 => cases h
  all_goals
    next hn => cases h; exact ⟨encXYN_of_code hg hn, rfl⟩

theorem encode_of_decodeGroupE (hg : (fields w).group.toNat = 0xE) (h : decodeGroupE (fields w) = some i) :
    encode i = w ∧ WellFormed i = true := by
  unfold decodeGroupE at h
  split at h
  case h_3 => cases h
  all_goals
    next hkk => cases h; exact ⟨encXKK_of_code hg hkk, rfl⟩

theorem encode_of_decodeGroupF (hg : (fields w).group.toNat = 0xF) (h : decodeGroupF (fields w) = some i) :
    encode i = w ∧ WellFormed i = true := by
  unfold decodeGroupF at h
  split at h
  case h_10 => cases h
  all_goals
    next hkk => cases h; exact ⟨encXKK_of_code hg hkk, rfl⟩

end groups

/-- Settles O3: group by group, the instruction's operands are the fields of the word. -/
theorem encodeInvertsDecode : Obligations.EncodeInvertsDecode := by
  intro w i h
  unfold decode decodeFields at h
  split at h
  case h_1 hg => exact encode_of_decodeGroup0 hg (Option.some.inj h)
  case h_2 hg | h_3 hg | h_11 hg | h_12 hg => cases h; exact ⟨encNNN_of_group hg, rfl⟩
  case h_4 hg | h_5 hg | h_7 hg | h_8 hg | h_13 hg => cases h; exact ⟨encXKK_of_group hg, rfl⟩
  case h_6 hg | h_10 hg =>
    obtain ⟨hn, h⟩ := Option.ite_none_right_eq_some.1 h
    cases h
    exact ⟨encXYN_of_code hg (congrArg BitVec.toNat hn), rfl⟩
  case h_9 hg => exact encode_of_decodeGroup8 hg h
  case h_14 hg => cases h; exact ⟨encXYN_of_group hg, rfl⟩
  case h_15 hg => exact encode_of_decodeGroupE hg h
  case h_16 hg => exact encode_of_decodeGroupF hg h
  case h_17 => cases h

/-! The words that select no instruction. -/

theorem decodeGroup8_eq_none_iff {f : Fields} :
    decodeGroup8 f = none ↔ f.n.toNat ∈ [0x8, 0x9, 0xA, 0xB, 0xC, 0xD, 0xF] := by
  have := f.n.isLt
  unfold decodeGroup8
  split
  case h_10 => simp only [List.mem_cons, List.not_mem_nil, or_false, imp_false, true_iff] at *; omega
  all_goals
    next hn => simp [hn]

theorem decodeGroupE_eq_none_iff {f : Fields} : decodeGroupE f = none ↔ f.kk.toNat ∉ [0x9E, 0xA1] := by
  unfold decodeGroupE
  split
  case h_3 => simp only [List.mem_cons, List.not_mem_nil, or_false, imp_false, true_iff] at *; omega
  all_goals
    next hkk => simp [hkk]

theorem decodeGroupF_eq_none_iff {f : Fields} :
    decodeGroupF f = none ↔ f.kk.toNat ∉ [0x07, 0x0A, 0x15, 0x18, 0x1E, 0x29, 0x33, 0x55, 0x65] := by
  unfold decodeGroupF
  split
  case h_10 => simp only [List.mem_cons, List.not_mem_nil, or_false, imp_false, true_iff] at *; omega
  all_goals
    next hkk => simp [hkk]

/-- Only groups with a function code have unsupported words (R61). -/
theorem decodeFields_eq_none_iff {f : Fields} : decodeFields f = none ↔
    ((f.group.toNat = 0x5 ∨ f.group.toNat = 0x9) ∧ f.n.toNat ≠ 0) ∨ (f.group.toNat = 0x8 ∧ decodeGroup8 f = none) ∨
      (f.group.toNat = 0xE ∧ decodeGroupE f = none) ∨ (f.group.toNat = 0xF ∧ decodeGroupF f = none) := by
  have := f.group.isLt
  unfold decodeFields
  split
  case h_17 => simp only [imp_false] at *; omega
  all_goals
    next hg => simp [hg, ← BitVec.toNat_inj]

/-- Settles O5: the conditions on the fields, each field a quotient or a remainder of the word. -/
theorem unsupportedWordsAreThese : Obligations.UnsupportedWordsAreThese := by
  intro w
  have hgroup : (fields w).group.toNat = w.toNat / 0x1000 := by
    have := w.isLt
    simp only [fields, toNat_field]
    omega
  have hn : (fields w).n.toNat = w.toNat % 16 := by simp [fields]
  have hkk : (fields w).kk.toNat = w.toNat % 256 := by simp [fields]
  rw [decode, decodeFields_eq_none_iff, decodeGroup8_eq_none_iff, decodeGroupE_eq_none_iff, decodeGroupF_eq_none_iff,
    hgroup, hn, hkk]

/-- Settles O1: each word by evaluation of the decoder. -/
theorem knownWordsDecode : Obligations.KnownWordsDecode := by
  unfold Obligations.KnownWordsDecode
  decide

end Sys2Proof
end

section
/-!
PROOFS. CALL and RET (41_control_flow.md R78, R80): the push on a stack with room and on a full one, the frames of the
pushed entry and of a fault, and a RET straight after a CALL.
-/

namespace Sys2Proof.Machine

section frames
variable {s t u : State} {w w' : List Part}

/-- A frame that allows more parts to change. -/
theorem SameExcept.mono (h : SameExcept w s t) (hw : w ⊆ w') : SameExcept w' s t where
  regs hp := h.regs (mt (hw ·) hp)
  index hp := h.index (mt (hw ·) hp)
  pc hp := h.pc (mt (hw ·) hp)
  stack hp := h.stack (mt (hw ·) hp)
  delayTimer hp := h.delayTimer (mt (hw ·) hp)
  soundTimer hp := h.soundTimer (mt (hw ·) hp)
  memory hp := h.memory (mt (hw ·) hp)
  display hp := h.display (mt (hw ·) hp)
  redraw hp := h.redraw (mt (hw ·) hp)
  status hp := h.status (mt (hw ·) hp)
  keys := h.keys
  params := h.params
  host := h.host

variable (s) in
/-- Only the stack, the depth and pc move in a push and in a pop. -/
theorem State.with_stack_setPc_sameExcept (stack : Vector Word 16) (sp : Fin 17) (a : Word) :
    SameExcept [.stack, .pc] s ({ s with stack := stack, sp := sp }.setPc a) := by
  constructor
  case pc | stack => simp
  case host => exact ⟨rfl, rfl, rfl, rfl⟩
  all_goals intros; rfl

variable (s) in
/-- Taking a fault writes the status alone (60_exceptions.md R122). -/
theorem State.raiseFault_sameExcept (code : FaultCode) (opcode faultPc : Word) :
    SameExcept [.status] s (s.raiseFault code opcode faultPc) :=
  { SameExcept.refl s [.status] with status := fun h => absurd (List.mem_singleton_self Part.status) h }

end frames

section stack
variable {s : State}

variable (s) in
/-- The stack has room for one more entry, or is full (10_state.md R20). -/
theorem State.sp_lt_or_eq : s.sp.val < 16 ∨ s.sp.val = 16 := by
  have := s.sp.isLt
  omega

theorem exec_ret_of_sp_eq_zero (h : s.sp.val = 0) : exec .ret s = .next s :=
  exec_ret_of_pop?_eq_none (State.pop?_eq_none.2 h)

theorem exec_ret_of_sp_pos (h : 0 < s.sp.val) :
    exec .ret s = .next ({ s with sp := ⟨s.sp.val - 1, by omega⟩ }.setPc s.stack[s.sp.val - 1]) :=
  exec_ret_of_pop?_eq_some (State.pop?_of_sp_pos h)

/-- The state after a push on a stack with room (10_state.md R20). -/
def State.pushed (s : State) (h : s.sp.val < 16) (a : Word) : State :=
  { s with stack := s.stack.set s.sp.val a, sp := ⟨s.sp.val + 1, Nat.succ_lt_succ h⟩ }

theorem State.push?_of_sp_lt (h : s.sp.val < 16) (a : Word) : s.push? a = some (s.pushed h a) := dif_pos h

theorem exec_call_of_sp_lt (nnn : Addr) (h : s.sp.val < 16) :
    exec (.call nnn) s = .next ((s.pushed h s.pc).setPc (zextAddr nnn)) := by
  simp only [exec, execCall, State.push?_of_sp_lt h]

theorem exec_call_of_sp_eq (nnn : Addr) (h : s.sp.val = 16) :
    exec (.call nnn) s = .next (s.raiseFault .stackOverflow (addrWord 0x2 nnn) (s.pc - 2)) :=
  exec_call_of_push?_eq_none nnn (State.push?_eq_none.2 h)

/-- A RET at an entry that has just been pushed takes it back: it is left in the stack, above the depth. -/
theorem exec_ret_of_pushed (h : s.sp.val < 16) (a w : Word) : exec .ret ((s.pushed h a).setPc w) =
    .next { s with stack := s.stack.set s.sp.val a, pc := a } := by
  have htop : (s.stack.set s.sp.val a)[s.sp.val + 1 - 1] = a := Vector.getElem_set_self h
  rw [exec_ret_of_sp_pos (Nat.succ_pos s.sp.val)]
  exact congrArg (fun pc => Host.Outcome.next { s with stack := s.stack.set s.sp.val a, pc := pc }) htop

end stack

/-- Settles O17: by whether the stack has room for one more entry. -/
theorem callPushesAdvancedPc : Obligations.CallPushesAdvancedPc := by
  intro nnn s
  refine ⟨decode_addrWord_call nnn, fun h => ?room, fun h => ?full⟩
  case room =>
    exact ⟨_, exec_call_of_sp_lt nnn h, rfl, rfl, zextAddr_toNat nnn, s.with_stack_setPc_sameExcept _ _ _⟩
  case full => exact ⟨_, exec_call_of_sp_eq nnn h, rfl, s.raiseFault_sameExcept _ _ _⟩

/-- Settles O19: RET takes back the entry that CALL pushed, and the push changed no entry below the depth. -/
theorem retUndoesCall : Obligations.RetUndoesCall := by
  intro nnn s h
  refine ⟨_, _, exec_call_of_sp_lt nnn h, exec_ret_of_pushed h s.pc (zextAddr nnn), rfl, rfl, fun k hk => ?live, ?frame⟩
  case live => exact Vector.getElem_set_ne h k.isLt (Nat.ne_of_gt hk)
  case frame =>
    exact { SameExcept.refl s [.stack] with stack := fun hp => absurd (List.mem_singleton_self Part.stack) hp }

end Sys2Proof.Machine
end

section
/-!
PROOFS. The safe state (40_execution_cycle.md R69, 41_control_flow.md R78, R85, 60_exceptions.md R115): reset and LoadRom, the
effect of each instruction on a running core, and every operation of a run.
-/

namespace Sys2Proof.Machine

/-- The invariant looks at memory, pc, the stack and the status alone. -/
theorem State.Inv.congr {s t : State} (hs : s.Inv) (hmem : t.mem = s.mem := by rfl)
    (hparams : t.params = s.params := by rfl) (hpc : t.pc = s.pc := by rfl) (hstack : t.stack = s.stack := by rfl)
    (hsp : t.sp = s.sp := by rfl) (hstatus : t.status = s.status := by rfl) : t.Inv where
  memory := by rw [hmem, hparams]; exact hs.memory
  pc := hpc ▸ hs.pc
  returns := hstack ▸ hs.returns
  report := by rw [hstatus, hsp]; exact hs.report

/-- A fault keeps the invariant where its report is one the machine can have made. -/
theorem State.Inv.raiseFault {s : State} (hs : s.Inv) {code : FaultCode} {opcode faultPc : Word}
    (hreport : reportOk (.halted code opcode faultPc) s.sp) : (s.raiseFault code opcode faultPc).Inv :=
  { hs with report := hreport }

/-! Reset and LoadRom. -/

theorem State.resetCore_inv (s : State) : s.resetCore.Inv where
  memory := Memory.wf_nil s.params.font
  pc := (by decide : Config.pcReset.toNat ≤ maxPc)
  returns k := by rw [State.resetCore_stack_get]; decide
  report := trivial

/-- A ROM that is copied ends in the address space; one that is too large faults at a pc in range. -/
theorem State.Inv.loadRom {s : State} (hs : s.Inv) (bytes : List Byte) : (s.loadRom bytes).Inv := by
  unfold State.loadRom
  split
  next hlen =>
    exact { hs with
      memory := Memory.copy_wf s.params.font hs.memory bytes Config.progBase (Nat.add_le_add_left hlen 0x200) }
  next => exact hs.raiseFault ⟨rfl, hs.pc⟩

/-- Settles O48: Reset empties memory and stack, and LoadRom is a copy in the address space or a fault. -/
theorem resetAndLoadRomKeepSafeState : Obligations.ResetAndLoadRomKeepSafeState :=
  fun s bytes => ⟨s.resetCore_inv, fun hs => hs.loadRom bytes⟩

/-- Settles O46: `State.reset` is what Reset makes of it (R137). -/
theorem safeStateAtReset : Obligations.SafeStateAtReset := State.reset.resetCore_inv

/-! Instructions on a running core. -/

theorem toNat_add_two {a : Word} (h : a.toNat ≤ 0x1000) : (a + 2).toNat = a.toNat + 2 := by
  rw [BitVec.toNat_add]
  exact Nat.mod_eq_of_lt (Nat.lt_of_le_of_lt (Nat.add_le_add_right h 2) (by decide))

theorem zextAddr_toNat_le_maxPc (nnn : Addr) : (zextAddr nnn).toNat ≤ maxPc :=
  zextAddr_toNat nnn ▸ Nat.le_trans (Nat.le_of_lt nnn.isLt) (by decide)

theorem State.v0Target_toNat_le_maxPc (s : State) (nnn : Addr) : (s.v0Target nnn).toNat ≤ maxPc := by
  have := nnn.isLt
  have := (s.getV 0).isLt
  rw [s.v0Target_toNat, maxPc]
  omega

/-- A safe state in which an instruction's own effect starts: the core runs, and pc is the address after a word that has
been fetched (40_execution_cycle.md R69, R70). -/
structure State.InstrInv (s : State) : Prop where
  inv : s.Inv
  running : s.status = .running
  pc_lower : 2 ≤ s.pc.toNat
  pc_upper : s.pc.toNat ≤ 0x1000

namespace State.InstrInv

variable {s : State} (hs : s.InstrInv)
include hs

/-- On a running core the report says nothing, so memory, pc and the return addresses decide. -/
theorem inv_of {t : State} (hstatus : t.status = s.status) (hmemory : Memory.wf t.params.font t.mem)
    (hpc : t.pc.toNat ≤ maxPc) (hreturns : ∀ k : Fin 16, t.stack[k.val].toNat ≤ maxReturn) : t.Inv :=
  ⟨hmemory, hpc, hreturns, by rw [hstatus, hs.running]; trivial⟩

theorem setPc_inv {a : Word} (ha : a.toNat ≤ maxPc) : (s.setPc a).Inv := hs.inv_of rfl hs.inv.memory ha hs.inv.returns

theorem skipIf_inv (c : Bool) : (s.skipIf c).Inv := by
  cases c with
  | false => exact hs.inv
  | true =>
    refine hs.setPc_inv ?_
    rw [toNat_add_two hs.pc_upper]
    exact Nat.le_trans (Nat.add_le_add_right hs.pc_upper 2) (by decide)

theorem storeBytes_inv (a : Nat) (bytes : List Byte) : (s.storeBytes a bytes).Inv :=
  hs.inv_of (by simp) (State.storeBytes_wf hs.inv.memory a bytes) (by simpa using hs.inv.pc)
    (by simpa using hs.inv.returns)

/-- The pc before the advance is the address of the fetched word. -/
theorem pc_sub_two_toNat : (s.pc - 2).toNat ≤ Config.lastFetchPc := by
  have hle : (2 : Word) ≤ s.pc := BitVec.le_def.2 hs.pc_lower
  rw [BitVec.toNat_sub_of_le hle]
  exact Nat.sub_le_sub_right hs.pc_upper 2

theorem rewind_inv : s.rewind.Inv := hs.setPc_inv (Nat.le_trans hs.pc_sub_two_toNat (by decide))

/-- Every return address is the end of a CALL that has been fetched. -/
theorem pushed_returns (h : s.sp.val < 16) (k : Fin 16) : (s.pushed h s.pc).stack[k.val].toNat ≤ maxReturn := by
  simp only [State.pushed, Vector.getElem_set]
  split
  · exact hs.pc_upper
  · exact hs.inv.returns k

theorem call_inv (nnn : Addr) : ∃ t, exec (.call nnn) s = .next t ∧ t.Inv := by
  rcases s.sp_lt_or_eq with h | h
  · exact ⟨_, exec_call_of_sp_lt nnn h,
      hs.inv_of rfl hs.inv.memory (zextAddr_toNat_le_maxPc nnn) (hs.pushed_returns h)⟩
  · exact ⟨_, exec_call_of_sp_eq nnn h,
      hs.inv.raiseFault ⟨⟨nnn, decode_addrWord_call nnn⟩, hs.pc_sub_two_toNat, h⟩⟩

theorem ret_inv : ∃ t, exec .ret s = .next t ∧ t.Inv := by
  rcases Nat.eq_zero_or_pos s.sp.val with h | h
  · exact ⟨s, exec_ret_of_sp_eq_zero h, hs.inv⟩
  · exact ⟨_, exec_ret_of_sp_pos h, hs.inv_of rfl hs.inv.memory
      (Nat.le_trans (hs.inv.returns ⟨s.sp.val - 1, by omega⟩) (by decide)) hs.inv.returns⟩

theorem ldVxK_inv (x : RegIdx) : ∃ t, exec (.ldVxK x) s = .next t ∧ t.Inv := by
  cases hkey : s.leastKey with
  | some k => exact ⟨_, exec_ldVxK_of_leastKey_eq_some x hkey, hs.inv.congr⟩
  | none => exact ⟨_, exec_ldVxK_of_leastKey_eq_none x hkey, hs.rewind_inv⟩

/-- Every instruction answers a safe state: most write nothing that the invariant looks at. -/
theorem exec_inv (i : Instr) : ∃ t, exec i s = .next t ∧ t.Inv := by
  cases i with
  | cls | sys | ldImm | addImm | ldReg | orReg | andReg | xorReg | addReg | subReg | shr | subnReg | shl | ldI | rnd | drw
  | ldVxDt | ldDtVx | ldStVx | addI | ldF | ldRegs => exact ⟨_, rfl, hs.inv.congr⟩
  | seImm | sneImm | seReg | sneReg | skp | sknp => exact ⟨_, rfl, hs.skipIf_inv _⟩
  | ldB | stRegs => exact ⟨_, rfl, hs.storeBytes_inv _ _⟩
  | jp nnn => exact ⟨_, rfl, hs.setPc_inv (zextAddr_toNat_le_maxPc nnn)⟩
  | jpV0 nnn => exact ⟨_, rfl, hs.setPc_inv (s.v0Target_toNat_le_maxPc nnn)⟩
  | call nnn => exact hs.call_inv nnn
  | ret => exact hs.ret_inv
  | ldVxK x => exact hs.ldVxK_inv x

end State.InstrInv

/-! The operations of a run. -/

/-- An instruction starts in a safe state where its word has been fetched. -/
theorem State.Inv.beginInstr {s : State} (hs : s.Inv) (hrunning : s.status = .running)
    (hpc : s.pc.toNat ≤ Config.lastFetchPc) (rnd : Byte) : (s.beginInstr rnd).InstrInv := by
  have hadvanced : (s.pc + 2).toNat = s.pc.toNat + 2 := toNat_add_two (Nat.le_trans hpc (by decide))
  have hupper : (s.pc + 2).toNat ≤ 0x1000 := hadvanced ▸ Nat.add_le_add_right hpc 2
  exact ⟨⟨hs.memory, Nat.le_trans hupper (by decide), hs.returns, hs.report⟩, hrunning,
    hadvanced ▸ Nat.le_add_left 2 _, hupper⟩

theorem stepOp_inv {s t : State} {rnd : Byte} (hs : s.Inv) (h : stepOp rnd s = .next t) : t.Inv := by
  rcases stepOp_cases rnd s with ⟨_, _, _, -, hstep⟩ | ⟨-, hpc, hstep⟩ | ⟨hrunning, hpc, hdecode, hstep⟩ |
    ⟨i, hrunning, hpc, -, hstep⟩ <;> rw [hstep] at h
  · cases h
  · cases h; exact hs.raiseFault ⟨rfl, hpc, hs.pc⟩
  · cases h; exact (hs.beginInstr hrunning hpc rnd).inv.raiseFault ⟨hdecode, hpc⟩
  · obtain ⟨u, hexec, hu⟩ := (hs.beginInstr hrunning hpc rnd).exec_inv i
    cases hexec.symm.trans h
    exact hu

theorem tickOp_inv {s t : State} {ns : Nat} (hs : s.Inv) (h : tickOp ns s = .next t) : t.Inv := by
  rcases tickOp_cases ns s with ⟨_, _, _, -, htick⟩ | ⟨-, htick⟩ <;> cases htick.symm.trans h
  exact hs.congr (by simp) (by simp) (by simp) (by simp) (by simp) (by simp)

theorem runOp_inv {s t : State} {op : RunOp} (hs : s.Inv) (h : runOp op s = .next t) : t.Inv := by
  cases op with
  | setKeypad | ackRedraw => cases h; exact hs.congr
  | step => exact stepOp_inv hs h
  | tick => exact tickOp_inv hs h

/-- Settles O47: by the operation that happens; a Step keeps the invariant because every instruction does. -/
theorem everyStepKeepsSafeState : Obligations.EveryStepKeepsSafeState := by
  intro s t hs h
  cases hpending : s.pending with
  | nil =>
    rw [step_nil hpending] at h
    refine stepOp_inv ?_ h
    exact hs.congr
  | cons op rest =>
    rw [step_cons hpending] at h
    refine runOp_inv ?_ h
    exact hs.congr

end Sys2Proof.Machine
end

section
/-!
PROOFS. What an instruction may write (10_state.md R32): the frame of every instruction, and with it the one instruction that
can fault after the decode and the precision of every fault (60_exceptions.md R120 to R123).
-/

namespace Sys2Proof.Machine

section frames
variable {s t : State}

/-- Where the registers are not written, every register is as before. -/
theorem SameExcept.onlyRegs {w : List Part} (h : SameExcept w s t) (hw : Part.regs ∉ w) (xs : List RegIdx) :
    OnlyRegs xs s t := fun j _ => h.regs hw j

variable (s) in
theorem State.loadedRegs_onlyRegs (a : Nat) (x : RegIdx) :
    OnlyRegs ((List.finRange 16).filter (fun j => j.val ≤ x.val)) s { s with v := s.loadedRegs a x } := by
  intro j hj
  have hjx : ¬j ≤ x := by simpa using hj
  rw [s.getV_with_loadedRegs, if_neg hjx]

variable (s) in
theorem exec_ret_frame : ∃ t, exec .ret s = .next t ∧ SameExcept [.stack, .pc] s t := by
  rcases Nat.eq_zero_or_pos s.sp.val with h | h
  · exact ⟨s, exec_ret_of_sp_eq_zero h, SameExcept.refl s _⟩
  · exact ⟨_, exec_ret_of_sp_pos h, s.setSp_setPc_sameExcept _ _⟩

variable (s) in
theorem exec_call_frame (nnn : Addr) :
    ∃ t, exec (.call nnn) s = .next t ∧ SameExcept [.stack, .pc, .status] s t := by
  rcases s.sp_lt_or_eq with h | h
  · exact ⟨_, exec_call_of_sp_lt nnn h, (s.with_stack_setPc_sameExcept _ _ _).mono (by decide)⟩
  · exact ⟨_, exec_call_of_sp_eq nnn h, (s.raiseFault_sameExcept _ _ _).mono (by decide)⟩

variable (s) in
theorem exec_ldVxK_frame (x : RegIdx) :
    ∃ t, exec (.ldVxK x) s = .next t ∧ SameExcept [.regs, .pc] s t ∧ OnlyRegs [x] s t := by
  cases hkey : s.leastKey with
  | some k =>
    exact ⟨_, exec_ldVxK_of_leastKey_eq_some x hkey, (s.setV_frame x _).2.mono (by decide), (s.setV_frame x _).1⟩
  | none =>
    have hframe : SameExcept [.pc] s s.rewind := s.setPc_sameExcept _
    exact ⟨_, exec_ldVxK_of_leastKey_eq_none x hkey, hframe.mono (by decide), hframe.onlyRegs (by decide) _⟩

/-- An instruction that writes no register, from the frame of the parts it writes. -/
theorem exec_frame_of_sameExcept {i : Instr} (hexec : exec i s = .next t) (h : SameExcept (instrWrites i) s t)
    (hregs : Part.regs ∉ instrWrites i := by simp [instrWrites]) :
    ∃ t, exec i s = .next t ∧ SameExcept (instrWrites i) s t ∧ OnlyRegs (instrDests i) s t :=
  ⟨t, hexec, h, h.onlyRegs hregs _⟩

end frames

/-- Settles O43: the frame of each form of write, by the instructions that have it. -/
theorem everyInstructionWritesOnlyItsParts : Obligations.EveryInstructionWritesOnlyItsParts := by
  intro i s
  cases i with
  | sys => exact exec_frame_of_sameExcept rfl (SameExcept.refl s [])
  | jp | jpV0 => exact exec_frame_of_sameExcept rfl (s.setPc_sameExcept _)
  | seImm | sneImm | seReg | sneReg | skp | sknp =>
    exact exec_frame_of_sameExcept rfl (s.skipIf_sameExcept _)
  | ret =>
    obtain ⟨t, hexec, hframe⟩ := exec_ret_frame s
    exact exec_frame_of_sameExcept hexec hframe
  | call nnn =>
    obtain ⟨t, hexec, hframe⟩ := exec_call_frame s nnn
    exact exec_frame_of_sameExcept hexec hframe
  | ldImm | addImm | ldReg | orReg | andReg | xorReg | rnd | ldVxDt =>
    exact ⟨_, rfl, (s.setV_frame _ _).2, (s.setV_frame _ _).1⟩
  | addReg | subReg | shr | subnReg | shl => exact ⟨_, rfl, (s.setVFlag_frame _ _ _).2, (s.setVFlag_frame _ _ _).1⟩
  | ldRegs x => exact ⟨_, rfl, s.with_v_sameExcept _, s.loadedRegs_onlyRegs _ x⟩
  | ldVxK x => exact exec_ldVxK_frame s x
  | ldI | addI | ldF => exact exec_frame_of_sameExcept rfl (s.setI_sameExcept _)
  | ldDtVx => exact exec_frame_of_sameExcept rfl (s.setDt_sameExcept _)
  | ldStVx => exact exec_frame_of_sameExcept rfl (s.setSt_sameExcept _)
  | ldB | stRegs => exact exec_frame_of_sameExcept rfl (s.storeBytes_sameExcept _ _)
  | cls => exact exec_frame_of_sameExcept rfl (s.showDisplay_sameExcept _)
  | drw x y n => exact ⟨_, rfl, s.setV_showDisplay_sameExcept _ vf _, (s.setV_frame vf _).1⟩

/-- CALL is the one instruction that may write the status (60_exceptions.md R117). -/
theorem status_mem_instrWrites {i : Instr} (h : Part.status ∈ instrWrites i) : ∃ nnn, i = .call nnn := by
  cases i with
  | call nnn => exact ⟨nnn, rfl⟩
  | _ => exact absurd h (by simp [instrWrites])

/-- An instruction leaves the core running, but for a CALL with 16 entries on the stack. -/
theorem exec_status (i : Instr) (s : State) :
    (∃ t, exec i s = .next t ∧ t.status = s.status) ∨ (∃ nnn, i = .call nnn) ∧ s.sp.val = 16 := by
  obtain ⟨t, hexec, hframe, -⟩ := everyInstructionWritesOnlyItsParts i s
  by_cases hstatus : Part.status ∈ instrWrites i
  · obtain ⟨nnn, rfl⟩ := status_mem_instrWrites hstatus
    rcases s.sp_lt_or_eq with h | h
    · exact .inl ⟨_, exec_call_of_sp_lt nnn h, rfl⟩
    · exact .inr ⟨⟨nnn, rfl⟩, h⟩
  · exact .inl ⟨t, hexec, hframe.status hstatus⟩

/-- Settles O11: a Step faults at the fetch, at the decode or in CALL, and its instruction is done otherwise. -/
theorem faultsArePrecise : Obligations.FaultsArePrecise := by
  intro rnd s hrunning
  rcases Nat.lt_or_ge 0xFFE s.pc.toNat with hpc | hpc
  · exact ⟨_, fetchBeyondMemoryHalts rnd s hrunning hpc, .inr (.inl ⟨hpc, rfl⟩)⟩
  cases hdecode : decode (s.wordAt s.pc.toNat) with
  | none => exact ⟨_, unsupportedWordHalts rnd s hrunning hpc hdecode, .inr (.inr (.inl ⟨hpc, rfl, rfl⟩))⟩
  | some i =>
    have hstep := stepOp_of_decode_eq_some (rnd := rnd) hrunning hpc hdecode
    rcases exec_status i (s.beginInstr rnd) with ⟨t, hexec, hstatus⟩ | ⟨⟨nnn, rfl⟩, hsp⟩
    · exact ⟨t, hstep.trans hexec, .inl (hstatus.trans hrunning)⟩
    · have hword : s.wordAt s.pc.toNat = addrWord 0x2 nnn := by
        rw [← encode_call, (encodeInvertsDecode _ _ hdecode).1]
      exact ⟨_, callBeyondDepthSixteenHalts rnd s nnn hrunning hpc hword hsp,
        .inr (.inr (.inr ⟨hpc, ⟨nnn, rfl⟩, hsp, rfl⟩))⟩

end Sys2Proof.Machine
end

section
/-!
PROOFS. Two runs compared (10_state.md R29, 40_execution_cycle.md R74, 00_scope.md R6): a relation of states that agree on
what the meanings read, and that each write keeps, is kept by every instruction and so by every operation of a run; with it,
what no instruction and no operation reads.
-/

namespace Sys2Proof.Machine

/-- `s` and `t` agree on all that the meanings read, `rnd` apart: of the stack the entry that RET takes, of the parameters
all but `CPU_HZ`. -/
structure ReadsAlike (s t : State) : Prop where
  v : t.v = s.v
  i : t.i = s.i
  pc : t.pc = s.pc
  sp : t.sp = s.sp
  top : ∀ _ : 0 < s.sp.val, t.stack[s.sp.val - 1] = s.stack[s.sp.val - 1]
  dt : t.dt = s.dt
  mem : t.mem = s.mem
  display : t.display = s.display
  key : t.key = s.key
  font : t.params.font = s.params.font
  shiftUsesVy : t.params.shiftUsesVy = s.params.shiftUsesVy
  drawEdge : t.params.drawEdge = s.params.drawEdge

namespace ReadsAlike

variable {s t : State} (h : ReadsAlike s t)
include h

theorem getV (x : RegIdx) : t.getV x = s.getV x := State.getV_congr h.v x

theorem shiftSource (x y : RegIdx) : t.shiftSource x y = s.shiftSource x y := by
  simp only [State.shiftSource, h.shiftUsesVy, h.getV]

theorem v0Target (nnn : Addr) : t.v0Target nnn = s.v0Target nnn := by
  simp only [State.v0Target, h.getV]

theorem keyDown (k : RegIdx) : t.keyDown k = s.keyDown k := by
  simp only [State.keyDown, h.key]

theorem leastKey : t.leastKey = s.leastKey := by
  simp only [State.leastKey, h.keyDown]

theorem peek (a : Nat) : t.peek a = s.peek a := by
  simp only [State.peek, h.mem, h.font]

theorem memRead (a : Nat) : t.memRead a = s.memRead a := h.peek (ea a)

theorem regsUpTo (x : RegIdx) : t.regsUpTo x = s.regsUpTo x := by
  simp only [State.regsUpTo, h.v]

theorem loadedRegs (x : RegIdx) : t.loadedRegs t.i.toNat x = s.loadedRegs s.i.toNat x := by
  simp only [State.loadedRegs, h.i, h.memRead, h.getV]

theorem drawnSprite (x y : RegIdx) (n : BitVec 4) : t.drawnSprite x y n = s.drawnSprite x y n := by
  simp only [State.drawnSprite, State.spriteCol, State.spriteRow, State.spriteRows, State.readBytes, h.drawEdge,
    h.display, h.i, h.memRead, h.getV]

theorem wordAt (a : Nat) : t.wordAt a = s.wordAt a := by
  simp only [State.wordAt, h.peek]

end ReadsAlike

/-- `R` relates states that the meanings read alike, and still does where the same is written to both. -/
structure Simulation (R : State → State → Prop) : Prop where
  reads : ∀ {s t}, R s t → ReadsAlike s t
  with_v : ∀ {s t}, R s t → ∀ v, R { s with v := v } { t with v := v }
  setI : ∀ {s t}, R s t → ∀ w, R (s.setI w) (t.setI w)
  setPc : ∀ {s t}, R s t → ∀ w, R (s.setPc w) (t.setPc w)
  pushed : ∀ {s t}, R s t → ∀ (h : s.sp.val < 16) (h' : t.sp.val < 16) w, R (s.pushed h w) (t.pushed h' w)
  with_sp : ∀ {s t}, R s t → ∀ n : Fin 17, n ≤ s.sp → R { s with sp := n } { t with sp := n }
  setDt : ∀ {s t}, R s t → ∀ b, R (s.setDt b) (t.setDt b)
  setSt : ∀ {s t}, R s t → ∀ b, R (s.setSt b) (t.setSt b)
  with_mem : ∀ {s t}, R s t → ∀ m, R { s with mem := m } { t with mem := m }
  showDisplay : ∀ {s t}, R s t → ∀ d, R (s.showDisplay d) (t.showDisplay d)
  raiseFault : ∀ {s t}, R s t → ∀ code opcode faultPc,
    R (s.raiseFault code opcode faultPc) (t.raiseFault code opcode faultPc)

namespace Simulation

variable {R : State → State → Prop} (hR : Simulation R)
include hR

section writes
variable {s t : State} (h : R s t)
include h

theorem setV (x : RegIdx) (b : Byte) : R (s.setV x b) (t.setV x b) := by
  rw [State.setV, State.setV, (hR.reads h).v]
  exact hR.with_v h _

theorem setVFlag (x : RegIdx) (b f : Byte) : R (s.setVFlag x b f) (t.setVFlag x b f) := hR.setV (hR.setV h x b) vf f

theorem skipIf (c : Bool) : R (s.skipIf c) (t.skipIf c) := by
  cases c with
  | false => exact h
  | true =>
    have hadvance : t.skipIf true = t.setPc (s.pc + 2) := congrArg (fun pc => t.setPc (pc + 2)) (hR.reads h).pc
    exact hadvance ▸ hR.setPc h (s.pc + 2)

theorem rewind : R s.rewind t.rewind := by
  rw [State.rewind, State.rewind, (hR.reads h).pc]
  exact hR.setPc h _

theorem memWrite (a : Nat) (b : Byte) : R (s.memWrite a b) (t.memWrite a b) := by
  rw [State.memWrite, State.memWrite, State.poke, State.poke, (hR.reads h).mem, (hR.reads h).font]
  exact hR.with_mem h _

end writes

theorem storeBytes {s t : State} (h : R s t) (a : Nat) (bytes : List Byte) :
    R (s.storeBytes a bytes) (t.storeBytes a bytes) := by
  induction bytes generalizing s t a with
  | nil => exact h
  | cons b bs ih => exact ih (hR.memWrite h a b) (a + 1)

/-! Instructions. -/

section exec
variable {s t : State} (h : R s t)
include h

theorem exec_ret : ∃ s' t', exec .ret s = .next s' ∧ exec .ret t = .next t' ∧ R s' t' := by
  have hsp := (hR.reads h).sp
  rcases Nat.eq_zero_or_pos s.sp.val with hs | hs
  · exact ⟨s, t, exec_ret_of_sp_eq_zero hs, exec_ret_of_sp_eq_zero (hsp ▸ hs), h⟩
  · refine ⟨_, _, exec_ret_of_sp_pos hs, exec_ret_of_sp_pos (hsp ▸ hs), ?_⟩
    simp only [hsp, (hR.reads h).top hs]
    exact hR.setPc (hR.with_sp h _ (Nat.sub_le _ _)) _

theorem exec_call (nnn : Addr) : ∃ s' t', exec (.call nnn) s = .next s' ∧ exec (.call nnn) t = .next t' ∧ R s' t' := by
  have hsp := (hR.reads h).sp
  have hpc := (hR.reads h).pc
  rcases s.sp_lt_or_eq with hs | hs
  · exact ⟨_, _, exec_call_of_sp_lt nnn hs, exec_call_of_sp_lt nnn (hsp ▸ hs),
      hpc ▸ hR.setPc (hR.pushed h hs (hsp ▸ hs) t.pc) _⟩
  · exact ⟨_, _, exec_call_of_sp_eq nnn hs, exec_call_of_sp_eq nnn (hsp ▸ hs), hpc ▸ hR.raiseFault h _ _ (t.pc - 2)⟩

theorem exec_ldVxK (x : RegIdx) :
    ∃ s' t', exec (.ldVxK x) s = .next s' ∧ exec (.ldVxK x) t = .next t' ∧ R s' t' := by
  have hkey := (hR.reads h).leastKey
  cases hs : s.leastKey with
  | some k =>
    exact ⟨_, _, exec_ldVxK_of_leastKey_eq_some x hs, exec_ldVxK_of_leastKey_eq_some x (hkey.trans hs), hR.setV h x _⟩
  | none =>
    exact ⟨_, _, exec_ldVxK_of_leastKey_eq_none x hs, exec_ldVxK_of_leastKey_eq_none x (hkey.trans hs), hR.rewind h⟩

/-- Every instruction keeps related states related, RND where they agree on `rnd`. -/
theorem exec (i : Instr) (hrnd : (∃ x kk, i = .rnd x kk) → t.rnd = s.rnd) :
    ∃ s' t', Machine.exec i s = .next s' ∧ Machine.exec i t = .next t' ∧ R s' t' := by
  have hreads := hR.reads h
  cases i
  case ret => exact hR.exec_ret h
  case call nnn => exact hR.exec_call h nnn
  case ldVxK x => exact hR.exec_ldVxK h x
  all_goals refine ⟨_, _, rfl, rfl, ?_⟩
  case sys => exact h
  case cls => exact hR.showDisplay h _
  case jp => exact hR.setPc h _
  case jpV0 nnn => rw [hreads.v0Target]; exact hR.setPc h _
  case seImm | sneImm | seReg | sneReg => simp only [hreads.getV]; exact hR.skipIf h _
  case skp | sknp => simp only [hreads.getV, hreads.keyDown]; exact hR.skipIf h _
  case ldImm => exact hR.setV h _ _
  case addImm | ldReg | orReg | andReg | xorReg => simp only [hreads.getV]; exact hR.setV h _ _
  case addReg | subReg | subnReg => simp only [hreads.getV]; exact hR.setVFlag h _ _ _
  case shr | shl => rw [hreads.shiftSource]; exact hR.setVFlag h _ _ _
  case rnd x kk => rw [hrnd ⟨x, kk, rfl⟩]; exact hR.setV h _ _
  case ldVxDt => rw [hreads.dt]; exact hR.setV h _ _
  case ldDtVx => rw [hreads.getV]; exact hR.setDt h _
  case ldStVx => rw [hreads.getV]; exact hR.setSt h _
  case ldI => exact hR.setI h _
  case addI => rw [hreads.getV, hreads.i]; exact hR.setI h _
  case ldF => rw [hreads.getV]; exact hR.setI h _
  case drw => rw [hreads.drawnSprite]; exact hR.showDisplay (hR.setV h vf _) _
  case ldB => rw [hreads.getV, hreads.i]; exact hR.storeBytes h _ _
  case stRegs => rw [hreads.regsUpTo, hreads.i]; exact hR.storeBytes h _ _
  case ldRegs => rw [hreads.loadedRegs]; exact hR.with_v h _

end exec

end Simulation

/-! What no instruction reads. -/

theorem ProgramView.readsAlike {s t : State} (h : ProgramView s t) : ReadsAlike s t where
  v := h.regs.symm
  i := h.index.symm
  pc := h.pc.symm
  sp := h.depth.symm
  top hs := (h.live ⟨s.sp.val - 1, by omega⟩ (Nat.sub_lt hs Nat.one_pos)).symm
  dt := h.delayTimer.symm
  mem := h.memory.symm
  display := h.display.symm
  key := h.keys.symm
  font := h.params ▸ rfl
  shiftUsesVy := h.params ▸ rfl
  drawEdge := h.params ▸ rfl

/-- A push writes the entry that becomes live, and the entries below it stay. -/
theorem ProgramView.pushed {s t : State} (h : ProgramView s t) (hs : s.sp.val < 16) (ht : t.sp.val < 16) (w : Word) :
    ProgramView (s.pushed hs w) (t.pushed ht w) := by
  have hsp : s.sp.val = t.sp.val := congrArg Fin.val h.depth
  refine { h with depth := Fin.ext (congrArg (· + 1) hsp), live := fun k hk => ?_ }
  simp only [State.pushed, Vector.getElem_set, ← hsp]
  split
  · rfl
  · next hne => exact h.live k (Nat.lt_of_le_of_ne (Nat.le_of_lt_succ hk) (Ne.symm hne))

theorem simulation_programView : Simulation ProgramView where
  reads h := h.readsAlike
  with_v h _ := { h with regs := rfl }
  setI h _ := { h with index := rfl }
  setPc h _ := { h with pc := rfl }
  pushed h := h.pushed
  with_sp h _ hn := { h with depth := rfl, live := fun k hk => h.live k (Nat.lt_of_lt_of_le hk hn) }
  setDt h _ := { h with delayTimer := rfl }
  setSt h _ := { h with }
  with_mem h _ := { h with memory := rfl }
  showDisplay h _ := { h with display := rfl }
  raiseFault h _ _ _ := { h with status := rfl }

/-- Settles O44: `ProgramView` is such a relation, and it compares `rnd` too. -/
theorem unreadStateIsNeverSeen : Obligations.UnreadStateIsNeverSeen :=
  fun i _ _ h => simulation_programView.exec h i fun _ => h.random.symm

theorem simulation_with_rnd (r : Byte) : Simulation fun s t => t = { s with rnd := r } := by
  constructor
  case reads => rintro s _ rfl; constructor <;> intros <;> rfl
  all_goals rintro s _ rfl; intros; rfl

/-- Settles O26: states that differ in `rnd` alone are such a relation. -/
theorem onlyRndReadsTheRandomByte : Obligations.OnlyRndReadsTheRandomByte := by
  intro i s r hi
  obtain ⟨t, _, hs, ht, rfl⟩ := (simulation_with_rnd r).exec (s := s) rfl i fun ⟨x, kk, h⟩ => absurd h (hi x kk)
  exact ⟨t, hs, ht⟩

/-! What no operation of a run reads. -/

/-- Both answer related states, or both the same fault. -/
inductive RelatedResults (R : State → State → Prop) : Result → Result → Prop where
  | next {s t : State} (h : R s t) : RelatedResults R (.next s) (.next t)
  | fault (r : Fault) : RelatedResults R (.fault r) (.fault r)

/-- A `Simulation` that the operations of a run keep too. -/
structure RunSimulation (R : State → State → Prop) : Prop extends Simulation R where
  status : ∀ {s t}, R s t → t.status = s.status
  beginInstr : ∀ {s t}, R s t → ∀ rnd, R (s.beginInstr rnd) (t.beginInstr rnd)
  ticked : ∀ {s t}, R s t → ∀ ns, R (s.ticked ns) (t.ticked ns)
  setKeypad : ∀ {s t}, R s t → ∀ keys, R (s.setKeypad keys) (t.setKeypad keys)
  ackRedraw : ∀ {s t}, R s t → R s.ackRedraw t.ackRedraw

namespace RunSimulation

variable {R : State → State → Prop} (hR : RunSimulation R) {s t : State} (h : R s t)
include hR h

theorem stepOp (rnd : Byte) : RelatedResults R (stepOp rnd s) (stepOp rnd t) := by
  have hpc := (hR.reads h).pc
  have hword : t.wordAt t.pc.toNat = s.wordAt s.pc.toNat := by rw [hpc, (hR.reads h).wordAt]
  cases hs : s.status with
  | halted code opcode faultPc =>
    rw [stepOp_of_halted hs, stepOp_of_halted ((hR.status h).trans hs)]
    exact .fault _
  | running =>
    have ht : t.status = .running := (hR.status h).trans hs
    rcases Nat.lt_or_ge 0xFFE s.pc.toNat with hfetch | hfetch
    · rw [stepOp_of_pc_out_of_range hs hfetch, stepOp_of_pc_out_of_range ht (hpc ▸ hfetch), hpc]
      exact .next (hR.raiseFault h _ _ _)
    cases hdecode : decode (s.wordAt s.pc.toNat) with
    | none =>
      have hdecode' := (congrArg decode hword).trans hdecode
      rw [stepOp_of_decode_eq_none hs hfetch hdecode, stepOp_of_decode_eq_none ht (hpc ▸ hfetch) hdecode', hword, hpc]
      exact .next (hR.raiseFault (hR.beginInstr h rnd) _ _ _)
    | some i =>
      have hdecode' := (congrArg decode hword).trans hdecode
      rw [stepOp_of_decode_eq_some hs hfetch hdecode, stepOp_of_decode_eq_some ht (hpc ▸ hfetch) hdecode']
      obtain ⟨s', t', hs', ht', h'⟩ := hR.exec (hR.beginInstr h rnd) i fun _ => rfl
      rw [hs', ht']
      exact .next h'

theorem tickOp (ns : Nat) : RelatedResults R (tickOp ns s) (tickOp ns t) := by
  cases hs : s.status with
  | halted code opcode faultPc =>
    rw [tickOp_of_halted hs, tickOp_of_halted ((hR.status h).trans hs)]
    exact .fault _
  | running =>
    rw [tickOp_of_running hs, tickOp_of_running ((hR.status h).trans hs)]
    exact .next (hR.ticked h ns)

theorem runOp (op : RunOp) : RelatedResults R (runOp op s) (runOp op t) := by
  cases op with
  | setKeypad keys => exact .next (hR.setKeypad h keys)
  | step rnd => exact hR.stepOp h rnd
  | tick ns => exact hR.tickOp h ns
  | ackRedraw => exact .next (hR.ackRedraw h)

end RunSimulation

/-- The state with another `CPU_HZ`. -/
def State.withCpuHz (s : State) (hz : Nat) : State := { s with params := { s.params with cpuHz := hz } }

theorem runSimulation_withCpuHz (hz : Nat) : RunSimulation fun s t => t = s.withCpuHz hz := by
  constructor
  case toSimulation =>
    constructor
    case reads => rintro s _ rfl; constructor <;> intros <;> rfl
    all_goals rintro s _ rfl; intros; rfl
  case ticked => rintro s _ rfl ns; unfold State.ticked; split <;> rfl
  all_goals rintro s _ rfl; intros; rfl

theorem step_withCpuHz (s : State) (hz : Nat) :
    RelatedResults (fun s t => t = s.withCpuHz hz) (step s) (step (s.withCpuHz hz)) := by
  cases hpending : s.pending with
  | nil =>
    rw [step_nil hpending, step_nil (s := s.withCpuHz hz) hpending]
    exact (runSimulation_withCpuHz hz).stepOp rfl _
  | cons op rest =>
    rw [step_cons hpending, step_cons (s := s.withCpuHz hz) hpending]
    exact (runSimulation_withCpuHz hz).runOp rfl op

/-- Settles O45: states that differ in `CPU_HZ` alone answer alike to the operation that happens. -/
theorem noOperationReadsCpuHz : Obligations.NoOperationReadsCpuHz := by
  intro s t hz h
  have hrelated := step_withCpuHz s hz
  rw [h] at hrelated
  change step (s.withCpuHz hz) = .next (t.withCpuHz hz)
  generalize step (s.withCpuHz hz) = r at hrelated
  cases hrelated with
  | next ht => rw [ht]

theorem runSimulation_with_pending (rest : List RunOp) :
    RunSimulation fun s t => s.pending = [] ∧ t = { s with pending := rest } := by
  constructor
  case toSimulation =>
    constructor
    case reads => rintro s _ ⟨-, rfl⟩; constructor <;> intros <;> rfl
    all_goals rintro s _ ⟨hs, rfl⟩; intros; exact ⟨hs, rfl⟩
  case ticked => rintro s _ ⟨hs, rfl⟩ ns; refine ⟨by simpa using hs, ?_⟩; unfold State.ticked; split <;> rfl
  case status => rintro s _ ⟨-, rfl⟩; rfl
  all_goals rintro s _ ⟨hs, rfl⟩; intros; exact ⟨hs, rfl⟩

/-- Settles O54: by induction on the schedule; no operation reads or writes what is left of it. -/
theorem scheduleRunsItsOperationsInOrder : Obligations.ScheduleRunsItsOperationsInOrder := by
  intro ops
  induction ops with
  | nil => exact fun s => rfl
  | cons op rest ih =>
    intro s
    have hrelated := (runSimulation_with_pending rest).runOp (s := { s with pending := [] }) ⟨rfl, rfl⟩ op
    have hstep : core.step { s with pending := op :: rest } = runOp op { s with pending := rest } := rfl
    simp only [List.length_cons, List.map_cons, Host.Core.run, runOps, Phase.after, applyOperation, hstep]
    generalize runOp op { s with pending := [] } = a at hrelated ⊢
    generalize runOp op { s with pending := rest } = b at hrelated ⊢
    cases hrelated with
    | fault r => rfl
    | @next u _ h =>
      obtain ⟨hu, rfl⟩ := h
      have hempty : { u with pending := [] } = u := by rw [← hu]
      rw [← hempty]
      exact ih u

end Sys2Proof.Machine
end

section
/-!
PROOFS. Memory (20_memory.md): the cells of a canonical memory are its bytes that differ from the reset contents, the bytes
that a copy leaves, LoadRom, and what a store of registers gives to a load and to a fetch.
-/

namespace Sys2Proof.Machine

section canonical
variable {font : Vector Byte 80} {m : Memory}

/-- A cell of a sorted memory reads back. -/
theorem Memory.read_of_mem (hm : m.Pairwise fun c d => c.1 < d.1) {c : Host.Cell} (hc : c ∈ m) :
    Memory.read font m c.1 = c.2 := by
  induction m with
  | nil => cases hc
  | cons d ds ih =>
    obtain ⟨hd, hds⟩ := List.pairwise_cons.1 hm
    rcases List.mem_cons.1 hc with rfl | hc
    · exact if_pos rfl
    · exact (if_neg (Nat.ne_of_lt (hd c hc))).trans (ih hds hc)

/-- A byte that is not the reset contents is listed. -/
theorem Memory.mem_of_read_ne {a : Nat} (h : Memory.read font m a ≠ resetByte font a) : (a, Memory.read font m a) ∈ m := by
  induction m with
  | nil => exact absurd rfl h
  | cons d ds ih =>
    unfold Memory.read at h ⊢
    split
    next hd => subst hd; exact List.mem_cons_self
    next hd => rw [if_neg hd] at h; exact List.mem_cons_of_mem d (ih h)

/-- The cells of a canonical memory are the bytes of the address space that differ from the reset contents. -/
theorem Memory.mem_iff (hm : Memory.wf font m) (c : Host.Cell) :
    c ∈ m ↔ c.1 < 4096 ∧ Memory.read font m c.1 = c.2 ∧ c.2 ≠ resetByte font c.1 := by
  constructor
  · exact fun hc => ⟨(hm.2 c hc).1, Memory.read_of_mem hm.1 hc, (hm.2 c hc).2⟩
  · rintro ⟨-, hread, hreset⟩
    have hlisted := Memory.mem_of_read_ne (hread ▸ hreset)
    rwa [hread] at hlisted

end canonical

/-- Settles O42: the memories have the same cells, and both are sorted by address. -/
theorem canonicalMemoriesThatReadAlikeAreEqual : Obligations.CanonicalMemoriesThatReadAlikeAreEqual := by
  intro font m m' hm hm' halike
  have hirrefl : Std.Irrefl fun c d : Host.Cell => c.1 < d.1 := ⟨fun c => Nat.lt_irrefl c.1⟩
  have hantisymm : Std.Antisymm fun c d : Host.Cell => c.1 < d.1 := ⟨fun c d h h' => absurd h' (Nat.lt_asymm h)⟩
  refine hm.1.eq_of_mem_iff hm'.1 fun c => ?_
  rw [Memory.mem_iff hm, Memory.mem_iff hm']
  exact and_congr_right fun hc => by rw [halike c.1 hc]

/-! LoadRom. -/

section copy
variable (font : Vector Byte 80) {m : Memory} (hm : m.Pairwise fun c d => c.1 < d.1) (bytes : List Byte)
include hm

/-- Each copied byte reads back at its address (70_reset_and_hazards.md R139). -/
theorem Memory.read_copy (a j : Nat) (hj : j < bytes.length) :
    Memory.read font (Memory.copy font m a bytes) (a + j) = bytes[j] := by
  induction bytes generalizing a j with
  | nil => cases hj
  | cons v vs ih =>
    rw [Memory.copy, Memory.read_write font _ (Memory.copy_sorted font hm vs (a + 1))]
    cases j with
    | zero => exact if_pos rfl
    | succ k =>
      rw [if_neg (by omega), show a + (k + 1) = a + 1 + k by omega, ih (a + 1) k (Nat.lt_of_succ_lt_succ hj)]
      rfl

theorem Memory.read_copy_other (a b : Nat) (hb : b < a ∨ a + bytes.length ≤ b) :
    Memory.read font (Memory.copy font m a bytes) b = Memory.read font m b := by
  induction bytes generalizing a with
  | nil => rfl
  | cons v vs ih =>
    rw [List.length_cons] at hb
    rw [Memory.copy, Memory.read_write font _ (Memory.copy_sorted font hm vs (a + 1)), if_neg (by omega),
      ih (a + 1) (by omega)]

end copy

section loadRom
variable {s : State} {bytes : List Byte}

theorem State.loadRom_of_length_le (h : bytes.length ≤ 3584) :
    s.loadRom bytes = { s with mem := Memory.copy s.params.font s.mem 0x200 bytes } := if_pos h

theorem State.loadRom_of_lt_length (h : 3584 < bytes.length) : s.loadRom bytes = s.raiseFault .romTooLarge 0 s.pc :=
  if_neg (Nat.not_le.2 h)

variable (s) in
theorem State.with_mem_sameExcept (m : Memory) : SameExcept [.memory] s { s with mem := m } :=
  { SameExcept.refl s [.memory] with memory := fun h => absurd (List.mem_singleton_self Part.memory) h }

end loadRom

/-- Settles O51: by the length of the ROM. -/
theorem loadRomCopiesOrRefusesTooLarge : Obligations.LoadRomCopiesOrRefusesTooLarge := by
  intro s bytes hs
  refine ⟨s.loadRom bytes, rfl, fun h => ?copies, fun h => ?tooLarge⟩
  case copies =>
    rw [State.loadRom_of_length_le h]
    exact ⟨Memory.read_copy s.params.font hs.1 bytes 0x200, Memory.read_copy_other s.params.font hs.1 bytes 0x200,
      s.with_mem_sameExcept _⟩
  case tooLarge =>
    rw [State.loadRom_of_lt_length h]
    exact ⟨rfl, stepOp_of_halted rfl⟩

/-! A store of registers, a load and a fetch. -/

/-- Settles O39: the load reads at the addresses of the store, since I is unchanged by both. -/
theorem storeThenLoadRestoresRegisters : Obligations.StoreThenLoadRestoresRegisters := by
  intro x s regs hs
  obtain ⟨-, t, hstore, hstored, -, hframe⟩ := storeRegistersWritesBytes x s hs
  obtain ⟨-, u, hload, hloaded, -, hframe'⟩ := loadRegistersReadsBytes x { t with v := regs }
  have hti : t.i = s.i := hframe.index (by decide)
  have hui : u.i = s.i := (hframe'.index (by decide)).trans hti
  refine ⟨t, u, hstore, hload, fun j hj => ?_, hti, hui⟩
  calc u.getV j = t.peek (ea (t.i.toNat + j.val)) := hloaded j hj
    _ = s.getV j := by rw [hti, hstored j hj]

/-- Below the last address of the space the next effective address is the next address (20_memory.md R42). -/
theorem ea_succ {a p : Nat} (h : p = ea a) (hp : p ≤ 0xFFE) : p + 1 = ea (a + 1) := by
  simp only [ea, Config.memSize] at *
  omega

/-- Settles O41: both bytes that the fetch reads have been stored. -/
theorem storedBytesAreFetchedNext : Obligations.StoredBytesAreFetchedNext := by
  intro x s j k p hs hk hjk hp hle
  obtain ⟨-, t, hstore, hstored, -⟩ := storeRegistersWritesBytes x s hs
  have hjx : j ≤ x := Nat.le_trans (by omega) hk
  have hhi : t.peek p.toNat = s.getV j := by rw [hp, hstored j hjx]
  have hlo : t.peek (p.toNat + 1) = s.getV k := by rw [ea_succ hp hle, Nat.add_assoc, ← hjk, hstored k hk]
  refine ⟨t, hstore, ?_⟩
  calc (t.setPc p).fetchWord.toNat = (t.peek p.toNat).toNat * 256 + (t.peek (p.toNat + 1)).toNat := wordOfBytes_toNat _ _
    _ = (s.getV j).toNat * 256 + (s.getV k).toNat := by rw [hhi, hlo]

/-! Placing a word (log 9). -/

/-- The two bytes placed at an address below 0xFFF make the word there. -/
theorem State.wordAt_poke_poke {s : State} (hs : Memory.wf s.params.font s.mem) {a : Nat} (ha : a ≤ 0xFFE) (w : Word) :
    ((s.poke a (hiByte w)).poke (a + 1) (loByte w)).wordAt a = w := by
  have hs' := State.poke_wf hs (Nat.lt_of_le_of_lt ha (by decide)) (hiByte w)
  apply BitVec.eq_of_toNat_eq
  rw [State.wordAt, State.peek_poke hs', State.peek_poke hs', State.peek_poke hs, if_neg (by omega), if_pos rfl,
    if_pos rfl, ← wordOfBytes_toNat, wordOfBytes_hi_lo]
  exact Nat.mod_eq_of_lt w.isLt

theorem State.withFetchWord_pc_le (s : State) (nbits w : Nat) : (s.withFetchWord nbits w).pc.toNat ≤ 0xFFE := by
  change (if s.canFetch then s.pc else Config.pcReset).toNat ≤ 0xFFE
  split
  next h => exact of_decide_eq_true h
  next => decide

/-- The word at pc is the one placed there. -/
theorem State.wordAt_withFetchWord {s : State} (hs : Memory.wf s.params.font s.mem) (w : Nat) :
    (s.withFetchWord 16 w).wordAt (s.withFetchWord 16 w).pc.toNat = BitVec.ofNat 16 w := by
  have hword : BitVec.ofNat 16 (w % 2 ^ 16) = BitVec.ofNat 16 w := BitVec.eq_of_toNat_eq (by simp)
  rw [← hword]
  exact State.wordAt_poke_poke (s := { s with
    pending := [], status := .running, pc := if s.canFetch then s.pc else Config.pcReset }) hs
    (s.withFetchWord_pc_le 16 w) _

/-- Settles O55: the placed word is at pc, the core runs and the schedule is empty, so the step is a Step on it. -/
theorem placedWordRunsNext : Obligations.PlacedWordRunsNext := by
  intro s w i hs _ hdecode
  have hplaced := (congrArg decode (State.wordAt_withFetchWord hs w)).trans hdecode
  exact ⟨Config.freeRandomByte s.draws,
    (step_nil rfl).trans (stepOp_of_decode_eq_some rfl (s.withFetchWord_pc_le 16 w) hplaced)⟩

end Sys2Proof.Machine
end

section
/-!
PROOFS. Drawing twice (95_test_vectors.md S6, D11): the cells a sprite covers depend on its origin, its bytes and the edge
policy alone, and DRW changes none of these but where an origin stands in VF.
-/

namespace Sys2Proof.Machine

/-- A sprite covers the same cells where its origin, its bytes and the edge policy are the same. -/
theorem State.spriteCovers_congr {s t : State} {x y : RegIdx} (hx : t.getV x = s.getV x) (hy : t.getV y = s.getV y)
    (hi : t.i = s.i) (hpeek : ∀ a, t.peek a = s.peek a) (hparams : t.params = s.params) (n : BitVec 4) (c : Fin 64)
    (r : Fin 32) : t.spriteCovers x y n c r = s.spriteCovers x y n c r := by
  simp only [State.spriteCovers, State.memRead, hx, hy, hi, hpeek, hparams]

/-- Settles O29: the first draw shows the sprite's cells, and the second flips each of them back. -/
theorem drawingTwiceRestoresDisplay : Obligations.DrawingTwiceRestoresDisplay := by
  intro x y n s hx hy hclear
  obtain ⟨-, t, hdraw, hpix, hbit, hcollides, -, hregs, hframe⟩ := drawFlipsCoveredCells x y n s
  obtain ⟨-, u, hdraw', hpix', -, hcollides', -⟩ := drawFlipsCoveredCells x y n t
  have hshown (c r) : t.pix c r = s.spriteCovers x y n c r := by rw [hpix, hclear, Bool.false_xor]
  have hcovers (c r) : t.spriteCovers x y n c r = s.spriteCovers x y n c r :=
    State.spriteCovers_congr (hregs x (by simpa using hx)) (hregs y (by simpa using hy)) (hframe.index (by decide))
      (hframe.memory (by decide)) hframe.params n c r
  refine ⟨t, u, hdraw, hdraw', fun c r => ?cleared, ?noCollision, ?collision⟩
  case cleared => rw [hpix', hshown, hcovers, Bool.xor_self]
  case noCollision =>
    refine hbit.resolve_right fun h => ?_
    obtain ⟨c, r, hset, -⟩ := hcollides.1 h
    rw [hclear] at hset
    cases hset
  case collision => simp only [hcollides', hshown, hcovers, and_self]

end Sys2Proof.Machine
end

section
/-!
PROOFS. Runs (70_reset_and_hazards.md R141, R145, R152): which sequences of operations are admitted, and the Steps of a
program that waits for a key or has stopped at a JP to itself.
-/

namespace Sys2Proof.Machine

/-! The schedule and the halted core. -/

/-- Settles O7: where the schedule is empty the `rnd` is the free byte of this draw. -/
theorem stepRunsDecodedInstruction : Obligations.StepRunsDecodedInstruction := by
  intro s i hrunning hpc hdecode
  refine ⟨fun rnd rest hpending => ?_, fun hpending => ⟨Config.freeRandomByte s.draws, ?_⟩⟩
  · exact (step_cons hpending).trans (stepOp_of_decode_eq_some hrunning hpc hdecode)
  · exact (step_nil hpending).trans (stepOp_of_decode_eq_some hrunning hpc hdecode)

/-- Settles O12: both operations look at the status first. -/
theorem haltedCoreHasNoStepAndNoTick : Obligations.HaltedCoreHasNoStepAndNoTick :=
  fun _ _ _ _ hhalted => ⟨stepOp_of_halted hhalted, tickOp_of_halted hhalted⟩

/-! Admission. -/

/-- `Step` answers a next state or a fault, since every instruction answers a next state. -/
theorem stepOp_ne_refused (rnd : Byte) (s : State) (r : Refusal) : stepOp rnd s ≠ .refused r := by
  intro h
  rcases stepOp_cases rnd s with ⟨_, _, _, -, hstep⟩ | ⟨-, -, hstep⟩ | ⟨-, -, -, hstep⟩ | ⟨i, -, -, -, hstep⟩
  case inr.inr.inr =>
    obtain ⟨t, hexec, -⟩ := everyInstructionWritesOnlyItsParts i (s.beginInstr rnd)
    cases hexec.symm.trans (hstep.symm.trans h)
  all_goals cases hstep.symm.trans h

theorem runOp_ne_refused (op : RunOp) (s : State) (r : Refusal) : runOp op s ≠ .refused r := by
  intro h
  cases op with
  | setKeypad | ackRedraw => cases h
  | step rnd => exact stepOp_ne_refused rnd s r h
  | tick ns => rcases tickOp_cases ns s with ⟨_, _, _, -, htick⟩ | ⟨-, htick⟩ <;> cases htick.symm.trans h

theorem runOps_loaded_cons_of_next {s t : State} {op : RunOp} (h : runOp op s = .next t) (rest : List Operation) :
    runOps .loaded s (.run op :: rest) = runOps .loaded t rest := by
  simp only [runOps, Phase.after, applyOperation, h]

theorem runOps_loaded_ne_refused (ops : List RunOp) (s : State) (r : Refusal) :
    runOps .loaded s (ops.map .run) ≠ .refused r := by
  induction ops generalizing s with
  | nil => exact fun h => by cases h
  | cons op ops ih =>
    cases hop : runOp op s with
    | next t => rw [List.map_cons, runOps_loaded_cons_of_next hop]; exact ih t
    | fault f => simp [runOps, Phase.after, applyOperation, hop]
    | refused r => exact absurd hop (runOp_ne_refused op s r)

/-- Settles O53: the admission looks at the phase and the first operation, and no run operation refuses. -/
theorem operationsComeInBootOrder : Obligations.OperationsComeInBootOrder := by
  intro s bytes ops
  refine ⟨fun op rest hop => ?uninitialised, fun _ _ => rfl, fun _ => rfl, fun _ => rfl, runOps_loaded_ne_refused ops s⟩
  case uninitialised =>
    cases op with
    | reset => exact absurd rfl hop
    | loadRom | run => rfl

/-! A program that waits for a key. -/

/-- The rewind takes the pc advance back (44_keypad_timers.md R105). -/
theorem State.beginInstr_rewind (s : State) (rnd : Byte) : (s.beginInstr rnd).rewind = { s with rnd := rnd } :=
  congrArg (fun pc => { s with rnd := rnd, pc := pc }) (BitVec.add_sub_cancel s.pc 2)

/-- Settles O32: by induction on the Steps, each of which rewinds pc to the word that waits. -/
theorem keyWaitRepeatsUntilKey : Obligations.KeyWaitRepeatsUntilKey := by
  intro x s rnds hrunning hpc hdecode hup
  induction rnds generalizing s with
  | nil => rfl
  | cons r rs ih =>
    have hwait : runOp (.step r) s = .next { s with rnd := r } := by
      rw [runOp, stepOp_of_decode_eq_some hrunning hpc hdecode, ← s.beginInstr_rewind]
      exact exec_ldVxK_of_leastKey_eq_none x (State.leastKey_eq_none.2 hup)
    rw [List.map_cons, runOps_loaded_cons_of_next hwait, ih { s with rnd := r } hrunning hpc hdecode hup,
      List.getLast?_cons, Option.getD_some]

/-! A program that has stopped at a JP to itself. -/

/-- `t` is `s` but for what run operations change of a stopped program: the timers, the beep, the keys, `redraw` and `rnd`
(70_reset_and_hazards.md R152). -/
def StaysStopped (s t : State) : Prop :=
  t = { s with dt := t.dt, st := t.st, beep := t.beep, key := t.key, redraw := t.redraw, rnd := t.rnd }

theorem StaysStopped.trans {s t u : State} (h : StaysStopped s t) (h' : StaysStopped t u) : StaysStopped s u := by
  unfold StaysStopped at *
  rw [h] at h'
  exact h'

theorem State.ticked_staysStopped (s : State) (ns : Nat) : StaysStopped s (s.ticked ns) := by
  unfold StaysStopped State.ticked
  split <;> rfl

section stopped
variable {s t : State} {a : Addr} (hrunning : s.status = .running) (hstopped : s.StoppedAt a)
include hrunning hstopped

theorem stepOp_of_stoppedAt (rnd : Byte) : stepOp rnd s = .next { s with rnd := rnd } := by
  obtain ⟨hpc, hle, hword⟩ := hstopped
  have hdecode : decode (s.wordAt s.pc.toNat) = some (.jp a) := by
    rw [hpc, hword]
    exact decode_addrWord_eq_some (g := 0x1#4) (fun _ => decodeFields_group1) a
  have htarget : zextAddr a = s.pc := BitVec.eq_of_toNat_eq ((zextAddr_toNat a).trans hpc.symm)
  rw [stepOp_of_decode_eq_some hrunning (hpc ▸ hle) hdecode]
  exact congrArg (fun pc => Host.Outcome.next { s with rnd := rnd, pc := pc }) htarget

theorem runOp_of_stoppedAt (op : RunOp) : ∃ t, runOp op s = .next t ∧ StaysStopped s t := by
  cases op with
  | setKeypad keys => exact ⟨_, rfl, rfl⟩
  | ackRedraw => exact ⟨_, rfl, rfl⟩
  | step rnd => exact ⟨_, stepOp_of_stoppedAt hrunning hstopped rnd, rfl⟩
  | tick ns => exact ⟨_, tickOp_of_running hrunning, s.ticked_staysStopped ns⟩

omit hrunning in
theorem StaysStopped.stoppedAt (h : StaysStopped s t) : t.StoppedAt a := by
  rw [h]
  exact hstopped

omit hstopped in
theorem StaysStopped.running (h : StaysStopped s t) : t.status = .running := by
  rw [h]
  exact hrunning

theorem runOps_of_stoppedAt (ops : List RunOp) :
    ∃ t, runOps .loaded s (ops.map .run) = .next t ∧ StaysStopped s t := by
  induction ops generalizing s with
  | nil => exact ⟨s, rfl, rfl⟩
  | cons op ops ih =>
    obtain ⟨t, hop, ht⟩ := runOp_of_stoppedAt hrunning hstopped op
    obtain ⟨u, hrest, hu⟩ := ih (ht.running hrunning) (ht.stoppedAt hstopped)
    exact ⟨u, (runOps_loaded_cons_of_next hop _).trans hrest, ht.trans hu⟩

end stopped

/-- Settles O49: the JP is fetched again by every Step, and no other operation changes pc, memory or the status. -/
theorem selfJumpStopsTheProgram : Obligations.SelfJumpStopsTheProgram := by
  intro s a hrunning hstopped
  refine ⟨stepOp_of_stoppedAt hrunning hstopped, fun ops => ?_⟩
  obtain ⟨t, hrun, ht⟩ := runOps_of_stoppedAt hrunning hstopped ops
  exact ⟨t, hrun, ht.stoppedAt hstopped, .inr ⟨a, ht.stoppedAt hstopped⟩, ht⟩

end Sys2Proof.Machine
end
